-- ==== Sys2Proof/Word.lean ====
section
/-! DEFINITION. The words of the block: bytes, nibbles, command words, hashes, images (spec/00_scope.md R5, R7).
Every field the spec gives a width is a bit vector of that width; the arithmetic of the rules is on `Nat` and `Int`
(R7: "All arithmetic in the pseudocode is on unbounded mathematical integers"), narrowed where a register is written. -/

namespace Sys2Proof

/-- One byte of an image (spec/20_memory.md R55). -/
abbrev Byte := BitVec 8

/-- One entry of the register file (spec/10_state.md R23). -/
abbrev Nibble := BitVec 4

/-- A 64-bit hash, bit 63 its most significant bit (spec/30_encoding.md R72). -/
abbrev Hash := BitVec 64

/-- The 96-bit command word `W` (spec/30_encoding.md R70). -/
abbrev CmdWord := BitVec 96

/-- The 64-bit `DATA` field of a response (spec/30_encoding.md R73). -/
abbrev Data := BitVec 64

/-- An image: a byte string of explicit length, byte 0 first (spec/20_memory.md R55). -/
abbrev Image := List Byte

/-- A sparse entry: a raw 32-bit word (spec/41_sparse_converter.md R120, R121). -/
abbrev SparseEntry := BitVec 32

end Sys2Proof
end

