-- ==== Sys2Proof/Machine/Binary64.lean ====
section
/-! DEFINITION. binary64 and its rounding (spec/00_scope.md R9).

A finite binary64 value is an integer multiple of 2^-1074, so it is held as that integer, its number of UNITS.
Software never sees a binary64 pattern (CARDINALITY answers an integer), so no bit pattern is modelled; the two zeros
are one value, since no rule can tell them apart (DEDUCED, log entry 7).
Values beyond the finite range follow IEEE 754, which R9 names (PRESUMED, log entry 6). -/

namespace Sys2Proof

/-- A binary64 value: `fin n` is the real number n * 2^-1074. -/
inductive Binary64 where
  | fin (units : Int)
  | posInf
  | negInf
  | nan
  deriving DecidableEq, Repr, Inhabited

namespace Machine

/-- The number of bits in the binary form of x, `bitlen(0) = 0` (R7). -/
def bitlen (x : Nat) : Nat := if x = 0 then 0 else Nat.log2 x + 1

/-- Units in 1.0. -/
def unitsInOne : Nat := 1 <<< 1074

/-- The least power of two beyond the finite range, 2^1024, in units. -/
def unitsLimit : Nat := 1 <<< 2098

/-- n units are a binary64 value: at most 53 significant bits, inside the finite range. -/
def representable (n : Int) : Bool :=
  decide (n.natAbs < unitsLimit) && decide (n.natAbs % 2 ^ (bitlen n.natAbs - 53) = 0)

/-- The value is one that binary64 has. -/
def isBinary64 : Binary64 → Bool
  | .fin n => representable n
  | .posInf => true
  | .negInf => true
  | .nan => true

/-- The value is a finite binary64 value. -/
def isFiniteBinary64 : Binary64 → Bool
  | .fin n => representable n
  | .posInf => false
  | .negInf => false
  | .nan => false

/-- The integer nearest to a / d, ties to the even one. -/
def roundHalfEven (a d : Nat) : Nat :=
  if 2 * (a % d) < d then a / d
  else if d < 2 * (a % d) then a / d + 1
  else if a / d % 2 = 0 then a / d else a / d + 1

/-- The last place kept when a / d units are rounded: 53 significant bits, never below one unit (subnormals). -/
def lastPlace (a d : Nat) : Nat := bitlen (a / d) - 53

/-- The magnitude of `fl`: a / d units rounded to 53 significant bits, ties to even. -/
def roundMagnitude (a d : Nat) : Nat :=
  roundHalfEven a (d * 2 ^ lastPlace a d) * 2 ^ lastPlace a d

/-- `fl` of the real number num / den units (R9); a magnitude that rounds to 2^1024 or more is an infinity (IEEE 754,
log entry 6). -/
def flUnits (num : Int) (den : Nat) : Binary64 :=
  if roundMagnitude num.natAbs den < unitsLimit then
    if num < 0 then .fin (-(roundMagnitude num.natAbs den : Int)) else .fin (roundMagnitude num.natAbs den : Int)
  else if num < 0 then .negInf else .posInf

/-- `fl` of the real number num / den (R9); a decimal constant such as 0.673 is `fl 673 1000`. -/
def fl (num : Int) (den : Nat) : Binary64 := flUnits (num * (unitsInOne : Int)) den

/-- 1.0 -/
def one64 : Binary64 := .fin (unitsInOne : Int)

/-- 0.0 -/
def zero64 : Binary64 := .fin 0

/-- The sign change of IEEE 754. -/
def neg64 : Binary64 → Binary64
  | .fin n => .fin (-n)
  | .posInf => .negInf
  | .negInf => .posInf
  | .nan => .nan

/-- `a +. b` (R9). -/
def add64 : Binary64 → Binary64 → Binary64
  | .fin a, .fin b => flUnits (a + b) 1
  | .nan, _ => .nan
  | _, .nan => .nan
  | .posInf, .negInf => .nan
  | .negInf, .posInf => .nan
  | .posInf, _ => .posInf
  | .negInf, _ => .negInf
  | _, .posInf => .posInf
  | _, .negInf => .negInf

/-- `a -. b` (R9). -/
def sub64 (a b : Binary64) : Binary64 := add64 a (neg64 b)

/-- The infinity with the sign of n; none for 0. -/
def signedInf (n : Int) : Binary64 := if n = 0 then .nan else if n < 0 then .negInf else .posInf

/-- `a *. b` (R9). -/
def mul64 : Binary64 → Binary64 → Binary64
  | .fin a, .fin b => flUnits (a * b) unitsInOne
  | .nan, _ => .nan
  | _, .nan => .nan
  | .fin a, .posInf => signedInf a
  | .fin a, .negInf => signedInf (-a)
  | .posInf, .fin b => signedInf b
  | .negInf, .fin b => signedInf (-b)
  | .posInf, .posInf => .posInf
  | .negInf, .negInf => .posInf
  | .posInf, .negInf => .negInf
  | .negInf, .posInf => .negInf

/-- `a /. b` (R9). No rule divides by zero (43_cardinality.md R170: "every quotient is finite"); the model's answer
there is `nan`, which nothing reaches. -/
def div64 : Binary64 → Binary64 → Binary64
  | .fin a, .fin b =>
    if b = 0 then .nan
    else flUnits ((if b < 0 then -a else a) * (unitsInOne : Int)) b.natAbs
  | .nan, _ => .nan
  | _, .nan => .nan
  | .fin _, .posInf => .fin 0
  | .fin _, .negInf => .fin 0
  | .posInf, .fin b => signedInf b
  | .negInf, .fin b => signedInf (-b)
  | .posInf, .posInf => .nan
  | .posInf, .negInf => .nan
  | .negInf, .posInf => .nan
  | .negInf, .negInf => .nan

/-- `a < b` on the values; false when either is not a number. -/
def lt64 : Binary64 → Binary64 → Bool
  | .fin a, .fin b => decide (a < b)
  | .nan, _ => false
  | _, .nan => false
  | .posInf, _ => false
  | _, .negInf => false
  | .negInf, _ => true
  | _, .posInf => true

end Machine
end Sys2Proof
end

