-- ==== Sys2Proof/Config.lean ====
section
/-! DEFINITION. The parameters of the block (spec/00_scope.md R5, R6) and the values the spec leaves open.

The parameters that differ between implementations are plain data, `HwConfig`, held in `State` and changed by nothing,
so that a statement about every state is a statement about every configuration. The constants below with no body are
free values: nothing can be proved of them. -/

namespace Sys2Proof

/-- One point of a bias table: a raw estimate R_i and its bias B_i (spec/43_cardinality.md R176). -/
structure BiasPoint where
  raw : Binary64
  bias : Binary64
  deriving DecidableEq, Repr

/-- `BIAS_TABLE(p)` for one p (R5). -/
abbrev BiasTable := List BiasPoint

/-- Which logarithm the implementation has (parameter `LN` of R5): the default, or one the model knows nothing of. -/
inductive LnUnit where
  /-- "default: the correctly rounded natural logarithm" (R5) -/
  | correctlyRounded
  /-- any other function, named by a number; its values are `Config.lnOf k`, left open -/
  | other (k : Nat)
  deriving DecidableEq, Repr

/-- The parameters of R5 that an implementation chooses. `biasTables` lists `BIAS_TABLE(1)` to `BIAS_TABLE(16)`. -/
structure HwConfig where
  hasPacker : Bool
  tagSparseV1 : Byte
  tagDenseV1 : Byte
  tagSparseV2 : Byte
  biasTables : List BiasTable
  lnUnit : LnUnit
  deriving DecidableEq, Repr

/-- `BIAS_TABLE(p)`, for p in [1, 16]. -/
def HwConfig.biasTable (cfg : HwConfig) (p : Nat) : BiasTable := cfg.biasTables.getD (p - 1) []

/-- R6: "raw estimates strictly increasing". -/
def rawIncreasing : BiasTable → Bool
  | a :: b :: rest => Machine.lt64 a.raw b.raw && rawIncreasing (b :: rest)
  | [_] => true
  | [] => true

/-- R6 for one table: strictly increasing, every raw estimate and every bias finite. -/
def biasTableWf (t : BiasTable) : Bool :=
  rawIncreasing t && t.all fun q => Machine.isFiniteBinary64 q.raw && Machine.isFiniteBinary64 q.bias

/-- R6: what makes the values a configuration of this block. (`LN(1.0) = 0.0` holds by the definition of
`HwConfig.ln`.) -/
def HwConfig.wf (cfg : HwConfig) : Bool :=
  decide (cfg.tagSparseV1 ≠ cfg.tagDenseV1) && decide (cfg.tagSparseV1 ≠ cfg.tagSparseV2) &&
  decide (cfg.tagDenseV1 ≠ cfg.tagSparseV2) && decide (cfg.biasTables.length = 16) && cfg.biasTables.all biasTableWf

/-- FREE VALUE: the values of a logarithm other than the default (R5 `LN`, "OPEN"; log entry 4). -/
opaque Config.lnOf : Nat → Binary64 → Binary64

/-- FREE VALUE: the contents of `BIAS_TABLE(p)` after reset (R5 `BIAS_TABLE`, "OPEN"; log entry 3). -/
opaque Config.rawBiasTable : Nat → BiasTable

/-- FREE VALUE: what NIB[0] holds after the n-th reset (spec/10_state.md R44, "unspecified: any value"; log entry 5). -/
opaque Config.resetNib : Nat → Nibble

/-- FREE VALUE: the integer that rounding an infinity or a not-a-number gives; R177 states none (log entry 6). -/
opaque Config.roundNonFinite : Binary64 → BitVec 64

/-- The open table of one p, kept inside R6: any table that R6 allows, and nothing else. -/
def Config.biasTable (p : Nat) : BiasTable :=
  if biasTableWf (Config.rawBiasTable p) then Config.rawBiasTable p else []

/-- The configuration of `State.reset`: R5's defaults where R5 gives one (log entries 2 and 4), the open tables where
it gives none (log entry 3). -/
def HwConfig.default : HwConfig where
  hasPacker := true
  tagSparseV1 := 0#8
  tagDenseV1 := 1#8
  tagSparseV2 := 2#8
  biasTables := (List.range 16).map fun k => Config.biasTable (k + 1)
  lnUnit := .correctlyRounded

end Sys2Proof
end

