-- ==== Sys2Proof/Syntax.lean ====
section
/-! DEFINITION. The twelve commands of spec/opcode_table.json as syntax, and the host's command (spec/30_encoding.md
R70, R74). A command's operands are its fields as they stand in the word (R72); the image of a command that requires
one is an operand too. -/

namespace Sys2Proof

/-- One constructor per row of spec/opcode_table.json. -/
inductive Instr where
  /-- `NOP` (46_control.md R240) -/
  | nop
  /-- `INIT p` (42_register_update.md R140); p is the field A8 -/
  | init (p : BitVec 8)
  /-- `INSERT bucket, value` (42_register_update.md R143); bucket is A16, value is A8 -/
  | insert (bucket : BitVec 16) (value : BitVec 8)
  /-- `INSERT_HASH hash` (42_register_update.md R144); hash is A64 -/
  | insertHash (hash : Hash)
  /-- `DECODE_HASH hash` (40_hash_lzc.md R104); hash is A64 -/
  | decodeHash (hash : Hash)
  /-- `CARDINALITY` (43_cardinality.md R170) -/
  | cardinality
  /-- `MERGE_IMAGE [img]` (44_merge.md R190) -/
  | mergeImage (img : Image)
  /-- `LOAD_IMAGE [img]` (45_image_packer.md R222) -/
  | loadImage (img : Image)
  /-- `STORE_IMAGE` (45_image_packer.md R214) -/
  | storeImage
  /-- `VERIFY` (46_control.md R241) -/
  | verify
  /-- `READ_BUCKET bucket` (46_control.md R242); bucket is A16 -/
  | readBucket (bucket : BitVec 16)
  /-- `READ_CSR csr` (46_control.md R243); csr is A8 -/
  | readCsr (csr : BitVec 8)
  deriving DecidableEq, Repr

/-- What the host issues: the pair `(W, IMG)` of R70; `none` is no image, `some []` an image of length 0 (R77). -/
structure Command where
  word : CmdWord
  img : Option Image
  deriving DecidableEq, Repr

/-- The row of spec/opcode_table.json a command stands for. -/
def Instr.mnemonic : Instr → String
  | .nop => "NOP"
  | .init _ => "INIT"
  | .insert _ _ => "INSERT"
  | .insertHash _ => "INSERT_HASH"
  | .decodeHash _ => "DECODE_HASH"
  | .cardinality => "CARDINALITY"
  | .mergeImage _ => "MERGE_IMAGE"
  | .loadImage _ => "LOAD_IMAGE"
  | .storeImage => "STORE_IMAGE"
  | .verify => "VERIFY"
  | .readBucket _ => "READ_BUCKET"
  | .readCsr _ => "READ_CSR"

end Sys2Proof
end

