-- ==== Sys2Proof/WellFormed.lean ====
section
/-! DEFINITION. Which commands the block has (spec/30_encoding.md R76, R77). Field widths are in the types of `Instr`;
operand ranges (a precision outside [1, 16], a bucket at or above m, a reserved CSR) are checked when the command runs
and answer INVALID_ARGUMENT, so a command that has them is well-formed. What is left is the optional packer. -/

namespace Sys2Proof

/-- R77: "When `HAS_PACKER = false`, `STORE_IMAGE` fails with `ILLEGAL_COMMAND`"; every other command is always legal. -/
def WellFormed (hasPacker : Bool) : Instr → Bool
  | .nop => true
  | .init _ => true
  | .insert _ _ => true
  | .insertHash _ => true
  | .decodeHash _ => true
  | .cardinality => true
  | .mergeImage _ => true
  | .loadImage _ => true
  | .storeImage => hasPacker
  | .verify => true
  | .readBucket _ => true
  | .readCsr _ => true

end Sys2Proof
end

