-- ==== Sys2Proof/Decode.lean ====
section
/-! DEFINITION. The command encoding (spec/30_encoding.md R70 to R80): decoder, encoder, opcode table, assembler. -/

namespace Sys2Proof

/-- `OP`, bits [95:88] (R71). -/
def opField (w : CmdWord) : BitVec 8 := w.extractLsb' 88 8
/-- `A8`, bits [87:80] (R71). -/
def a8Field (w : CmdWord) : BitVec 8 := w.extractLsb' 80 8
/-- `A16`, bits [79:64] (R71). -/
def a16Field (w : CmdWord) : BitVec 16 := w.extractLsb' 64 16
/-- `A64`, bits [63:0] (R71). -/
def a64Field (w : CmdWord) : BitVec 64 := w.extractLsb' 0 64

/-- The assembled word `{OP, A8, A16, A64}` (R79). -/
def packWord (op a8 : BitVec 8) (a16 : BitVec 16) (a64 : BitVec 64) : CmdWord := op ++ a8 ++ a16 ++ a64

/-- Why a command does not decode; each is reported as ILLEGAL_COMMAND (R75 to R78). -/
inductive DecodeError where
  /-- OP 0x0C to 0xFF (R75) -/
  | reservedOpcode (op : BitVec 8)
  /-- a non-zero A8 in a command that does not use it (R76) -/
  | nonzeroA8
  /-- a non-zero A16 in a command that does not use it (R76) -/
  | nonzeroA16
  /-- a non-zero A64 in a command that does not use it (R76) -/
  | nonzeroA64
  /-- MERGE_IMAGE or LOAD_IMAGE with no image (R77) -/
  | imageMissing
  /-- any other command with an image, an empty one included (R77) -/
  | imageNotAllowed
  /-- STORE_IMAGE in a block without the packer (R77, R218) -/
  | packerAbsent
  deriving DecidableEq, Repr

/-- R74, column "uses": INIT, INSERT and READ_CSR read A8. -/
def usesA8 (op : BitVec 8) : Bool := op == 0x01#8 || op == 0x02#8 || op == 0x0B#8
/-- R74, column "uses": INSERT and READ_BUCKET read A16. -/
def usesA16 (op : BitVec 8) : Bool := op == 0x02#8 || op == 0x0A#8
/-- R74, column "uses": INSERT_HASH and DECODE_HASH read A64. -/
def usesA64 (op : BitVec 8) : Bool := op == 0x03#8 || op == 0x04#8
/-- R74, column "image": MERGE_IMAGE and LOAD_IMAGE require one. -/
def needsImage (op : BitVec 8) : Bool := op == 0x06#8 || op == 0x07#8

/-- The command of an opcode with its operands (R74). `img` is read only by the two commands that require it. -/
def instrOf (op a8 : BitVec 8) (a16 : BitVec 16) (a64 : BitVec 64) (img : Image) : Option Instr :=
  if op = 0x00#8 then some .nop
  else if op = 0x01#8 then some (.init a8)
  else if op = 0x02#8 then some (.insert a16 a8)
  else if op = 0x03#8 then some (.insertHash a64)
  else if op = 0x04#8 then some (.decodeHash a64)
  else if op = 0x05#8 then some .cardinality
  else if op = 0x06#8 then some (.mergeImage img)
  else if op = 0x07#8 then some (.loadImage img)
  else if op = 0x08#8 then some .storeImage
  else if op = 0x09#8 then some .verify
  else if op = 0x0A#8 then some (.readBucket a16)
  else if op = 0x0B#8 then some (.readCsr a8)
  else none

/-- R78: the decoder, its checks in the rule's order. It reads the word, the image's presence and HAS_PACKER only. -/
def decode (hasPacker : Bool) (c : Command) : Except DecodeError Instr :=
  if 0x0B < (opField c.word).toNat then .error (.reservedOpcode (opField c.word))
  else if usesA8 (opField c.word) = false ∧ a8Field c.word ≠ 0#8 then .error .nonzeroA8
  else if usesA16 (opField c.word) = false ∧ a16Field c.word ≠ 0#16 then .error .nonzeroA16
  else if usesA64 (opField c.word) = false ∧ a64Field c.word ≠ 0#64 then .error .nonzeroA64
  else if needsImage (opField c.word) = true ∧ c.img = none then .error .imageMissing
  else if needsImage (opField c.word) = false ∧ c.img ≠ none then .error .imageNotAllowed
  else if opField c.word = 0x08#8 ∧ hasPacker = false then .error .packerAbsent
  else match instrOf (opField c.word) (a8Field c.word) (a16Field c.word) (a64Field c.word) (c.img.getD []) with
    | some i => .ok i
    | none => .error (.reservedOpcode (opField c.word))

/-- The word of a command (R74, R79). -/
def encodeWord : Instr → CmdWord
  | .nop => packWord 0x00#8 0#8 0#16 0#64
  | .init p => packWord 0x01#8 p 0#16 0#64
  | .insert bucket value => packWord 0x02#8 value bucket 0#64
  | .insertHash hash => packWord 0x03#8 0#8 0#16 hash
  | .decodeHash hash => packWord 0x04#8 0#8 0#16 hash
  | .cardinality => packWord 0x05#8 0#8 0#16 0#64
  | .mergeImage _ => packWord 0x06#8 0#8 0#16 0#64
  | .loadImage _ => packWord 0x07#8 0#8 0#16 0#64
  | .storeImage => packWord 0x08#8 0#8 0#16 0#64
  | .verify => packWord 0x09#8 0#8 0#16 0#64
  | .readBucket bucket => packWord 0x0A#8 0#8 bucket 0#64
  | .readCsr csr => packWord 0x0B#8 csr 0#16 0#64

/-- The image a command carries (R77): only the two commands that require one. -/
def encodeImage : Instr → Option Image
  | .nop => none
  | .init _ => none
  | .insert _ _ => none
  | .insertHash _ => none
  | .decodeHash _ => none
  | .cardinality => none
  | .mergeImage img => some img
  | .loadImage img => some img
  | .storeImage => none
  | .verify => none
  | .readBucket _ => none
  | .readCsr _ => none

/-- The command `(W, IMG)` the host issues for an instruction. -/
def encode (i : Instr) : Command := ⟨encodeWord i, encodeImage i⟩

/-- One row of spec/opcode_table.json. -/
structure OpcodeRow where
  mnemonic : String
  matchBits : CmdWord
  mask : CmdWord
  deriving DecidableEq, Repr

/-- spec/opcode_table.json, row by row. -/
def opcodeTable : List OpcodeRow := [
  ⟨"NOP", 0x000000000000000000000000#96, 0xFFFFFFFFFFFFFFFFFFFFFFFF#96⟩,
  ⟨"INIT", 0x010000000000000000000000#96, 0xFF00FFFFFFFFFFFFFFFFFFFF#96⟩,
  ⟨"INSERT", 0x020000000000000000000000#96, 0xFF000000FFFFFFFFFFFFFFFF#96⟩,
  ⟨"INSERT_HASH", 0x030000000000000000000000#96, 0xFFFFFFFF0000000000000000#96⟩,
  ⟨"DECODE_HASH", 0x040000000000000000000000#96, 0xFFFFFFFF0000000000000000#96⟩,
  ⟨"CARDINALITY", 0x050000000000000000000000#96, 0xFFFFFFFFFFFFFFFFFFFFFFFF#96⟩,
  ⟨"MERGE_IMAGE", 0x060000000000000000000000#96, 0xFFFFFFFFFFFFFFFFFFFFFFFF#96⟩,
  ⟨"LOAD_IMAGE", 0x070000000000000000000000#96, 0xFFFFFFFFFFFFFFFFFFFFFFFF#96⟩,
  ⟨"STORE_IMAGE", 0x080000000000000000000000#96, 0xFFFFFFFFFFFFFFFFFFFFFFFF#96⟩,
  ⟨"VERIFY", 0x090000000000000000000000#96, 0xFFFFFFFFFFFFFFFFFFFFFFFF#96⟩,
  ⟨"READ_BUCKET", 0x0A0000000000000000000000#96, 0xFFFF0000FFFFFFFFFFFFFFFF#96⟩,
  ⟨"READ_CSR", 0x0B0000000000000000000000#96, 0xFF00FFFFFFFFFFFFFFFFFFFF#96⟩]

/-- R78: "A row matches when `W AND mask = match`". -/
def OpcodeRow.matchesWord (r : OpcodeRow) (w : CmdWord) : Bool := w &&& r.mask == r.matchBits

/-- The rows a word matches. -/
def matchingRows (w : CmdWord) : List OpcodeRow := opcodeTable.filter fun r => r.matchesWord w

/-! The assembler of R79 and the pseudo-instructions of R80, on a line already cut into its words. -/

/-- An operand of an assembler line: a number (decimal or hexadecimal, R79), a CSR name, or an image in brackets. -/
inductive AsmOperand where
  | num (n : Nat)
  | name (s : String)
  | bytes (img : Image)
  deriving DecidableEq, Repr

/-- The CSR names of 10_state.md R33 to R41. -/
def csrNumber : String → Option (BitVec 8)
  | "STATUS" => some 0x00#8
  | "PRECISION" => some 0x01#8
  | "BUCKETS" => some 0x02#8
  | "BASELINE" => some 0x03#8
  | "BASELINE_COUNT" => some 0x04#8
  | "OVF" => some 0x05#8
  | "OVF_VALUE" => some 0x06#8
  | "IMAGE_SIZE" => some 0x07#8
  | "HWCFG" => some 0x08#8
  | _ => none

/-- A number as a field of w bits; none when it does not fit. -/
def asmField (w n : Nat) : Option (BitVec w) := if n < 2 ^ w then some (BitVec.ofNat w n) else none

/-- One line of R79, or a pseudo-instruction of R80, as the instruction it stands for. -/
def parseAsm : String → List AsmOperand → Option Instr
  | "NOP", [] => some .nop
  | "INIT", [.num p] => (asmField 8 p).map .init
  | "INSERT", [.num b, .num v] => (asmField 16 b).bind fun b' => (asmField 8 v).map fun v' => .insert b' v'
  | "INSERT_HASH", [.num h] => (asmField 64 h).map .insertHash
  | "DECODE_HASH", [.num h] => (asmField 64 h).map .decodeHash
  | "CARDINALITY", [] => some .cardinality
  | "MERGE_IMAGE", [.bytes img] => some (.mergeImage img)
  | "LOAD_IMAGE", [.bytes img] => some (.loadImage img)
  | "STORE_IMAGE", [] => some .storeImage
  | "VERIFY", [] => some .verify
  | "READ_BUCKET", [.num b] => (asmField 16 b).map .readBucket
  | "READ_CSR", [.num c] => (asmField 8 c).map .readCsr
  | "READ_CSR", [.name s] => (csrNumber s).map .readCsr
  | "ADD_HASH", [.num h] => (asmField 64 h).map .insertHash
  | "FROM_BYTES", [.bytes img] => some (.loadImage img)
  | "SERIALIZE", [] => some .storeImage
  | "MAKE_DENSE", [.bytes img] => some (.loadImage img)
  | _, _ => none

/-- R79: a line assembles to the command whose word is `{OP, A8, A16, A64}`. -/
def assemble (mnemonic : String) (operands : List AsmOperand) : Option Command :=
  (parseAsm mnemonic operands).map encode

/-- R79: "A listing shows the word as 24 hexadecimal digits, most significant first": the digits' values. -/
def listingDigits (w : CmdWord) : List Nibble := (List.range 24).map fun k => w.extractLsb' (4 * (23 - k)) 4

/-! The host's words (one 96-bit word; bit 0 its least significant bit). -/

/-- The command whose word is the low `nbits` bits of w. The table gives an image no bits, so a command that requires
one carries the image of length 0, which is present (R77; log entry 10). -/
def tableCommand (nbits w : Nat) : Command where
  word := BitVec.ofNat 96 (w % 2 ^ nbits)
  img := if needsImage (opField (BitVec.ofNat 96 (w % 2 ^ nbits))) then some [] else none

/-- The instruction the decoder reads from the word w of the opcode table, in the default configuration. -/
def decodeTableWord (nbits w : Nat) : Option Instr :=
  match decode HwConfig.default.hasPacker (tableCommand nbits w) with
  | .ok i => some i
  | .error _ => none

end Sys2Proof
end

