-- ==== Sys2Proof/Machine/Log.lean ====
section
/-! DEFINITION. The logarithm `LN` (spec/00_scope.md R5, R6; spec/43_cardinality.md R172).

The default is the correctly rounded natural logarithm: an enclosure of ln x in fixed point whose two ends round to the
same binary64 value, tried at three precisions. Where none decides, the value is left open (log entry 4). Any other
implementation's logarithm is left open. -/

namespace Sys2Proof
namespace Machine

/-- `acc + sum over i < n of (pw * t2^i / (odd + 2 i))`, in fixed point with w fraction bits, every term cut down. -/
def atanhTerms (w t2 : Nat) : Nat → Nat → Nat → Nat → Nat
  | 0, _, _, acc => acc
  | n + 1, odd, pw, acc => atanhTerms w t2 n (odd + 2) ((pw * t2) >>> w) (acc + pw / odd)

/-- artanh t for t = t0 * 2^-w in [0, 1/3], in fixed point. -/
def atanhFixed (w t0 : Nat) : Nat := atanhTerms w ((t0 * t0) >>> w) (w / 3 + 2) 1 t0 0

/-- ln x in fixed point with w fraction bits, for x of n > 0 units: with x = 2^k * y and y in [1, 2),
ln x = 2 k artanh(1/3) + 2 artanh((y - 1) / (y + 1)). -/
def lnFixed (w n : Nat) : Int :=
  2 * (((Nat.log2 n : Int) - 1074) * (atanhFixed w ((1 <<< w) / 3) : Int) +
    (atanhFixed w (((n - 2 ^ Nat.log2 n) <<< w) / (n + 2 ^ Nat.log2 n)) : Int))

/-- A bound on the error of `lnFixed`, in its last place, for every w up to 768. -/
def lnError : Int := 16777216

/-- ln of n units rounded, if w fraction bits decide it. -/
def lnTry (w n : Nat) : Option Binary64 :=
  if fl (lnFixed w n - lnError) (1 <<< w) = fl (lnFixed w n + lnError) (1 <<< w) then
    some (fl (lnFixed w n) (1 <<< w))
  else none

/-- The correctly rounded natural logarithm of n units; `open_` where no precision decides. -/
def lnRounded (open_ : Binary64) (n : Nat) : Binary64 :=
  match lnTry 192 n with
  | some r => r
  | none =>
    match lnTry 384 n with
    | some r => r
    | none =>
      match lnTry 768 n with
      | some r => r
      | none => open_

/-- An open value, kept inside binary64. -/
def asBinary64 (x : Binary64) : Binary64 := if isBinary64 x then x else .nan

/-- `LN` of the configuration: `LN(1.0) = 0.0` (R6); on any other positive finite value the configuration's choice. -/
def lnOfConfig (cfg : HwConfig) (x : Binary64) : Binary64 :=
  if x = one64 then zero64
  else match cfg.lnUnit, x with
    | .correctlyRounded, .fin n => lnRounded (asBinary64 (Config.lnOf 0 x)) n.toNat
    | .correctlyRounded, _ => asBinary64 (Config.lnOf 0 x)
    | .other k, _ => asBinary64 (Config.lnOf k x)

end Machine
end Sys2Proof
end

