-- ==== Sys2Proof/Machine/State.lean ====
section
/-! DEFINITION. The state of the block (spec/10_state.md R20 to R32, R44), and beside it what the model needs to run:
the configuration, the host's inputs and the block's responses (INVENTORY.md, "State"). -/

namespace Sys2Proof
namespace Machine

/-- The overflow slot (spec/10_state.md R26). -/
structure Slot where
  /-- OVF_VALID -/
  valid : Bool
  /-- OVF_BUCKET -/
  bucket : BitVec 16
  /-- OVF_VALUE, the excess over `baseline + 15` -/
  value : BitVec 8
  deriving DecidableEq, Repr

/-- A dense representation (spec/10_state.md R20): the block's own, or an operand in the scratch bank (R32). -/
structure Dense where
  /-- P (R22) -/
  p : BitVec 5
  /-- BASELINE (R24) -/
  baseline : BitVec 8
  /-- BASELINE_COUNT (R25) -/
  baselineCount : BitVec 17
  /-- NIB[0 .. 2^P - 1], bucket 0 first (R23) -/
  nib : List Nibble
  /-- OVF_VALID, OVF_BUCKET, OVF_VALUE (R26) -/
  ovf : Slot
  deriving DecidableEq, Repr

/-- What the host or the platform does next. -/
inductive Input where
  /-- the host issues a command (spec/30_encoding.md R70) -/
  | command (c : Command)
  /-- reset is asserted, with the command that was in progress, if any (spec/70_reset_and_hazards.md R290) -/
  | reset (inProgress : Option Command)
  deriving DecidableEq, Repr

/-- A response `(STATUS, DATA, OIMG)` (spec/30_encoding.md R73). -/
structure Response where
  status : BitVec 4
  data : Data
  oimg : Option Image
  deriving DecidableEq, Repr

/-- The status names of spec/60_exceptions.md R260; their codes are `Status.code`. -/
inductive Status where
  | ok
  | illegalCommand
  | notInitialized
  | invalidArgument
  | formatRetired
  | formatUnknown
  | formatCorrupt
  | precisionMismatch
  | unsupportedPrecision
  | unrepresentable
  | invariantViolation
  deriving DecidableEq, Repr

/-- The machine: R20's tuple (`valid`, `rep`) and the model's own fields. -/
structure State where
  /-- VALID (R21) -/
  valid : Bool
  /-- the dense representation the block holds; meaningless while VALID = 0 (R21) -/
  rep : Dense
  /-- MODEL'S OWN: the parameters of spec/00_scope.md R5; nothing changes them (log entry 2) -/
  cfg : HwConfig
  /-- MODEL'S OWN: what the host and the platform do next, oldest first (log entry 1) -/
  inputs : List Input
  /-- MODEL'S OWN: the responses delivered so far, oldest first (log entry 1) -/
  responses : List Response
  /-- MODEL'S OWN: how many free values of NIB have been used (log entry 5) -/
  freeIndex : Nat
  deriving DecidableEq, Repr

/-- No fault stops the block (spec/60_exceptions.md R264: "The block raises no exceptions in the trap sense"): every
failure is a status in a response, and the machine goes on. So there is no constructor. -/
inductive Fault where
  deriving DecidableEq, Repr

/-- Why the model has no answer. -/
inductive Refusal where
  /-- raised by an arm of `exec` whose instruction has no meaning yet (safe); no arm of this model raises it -/
  | notModelled (mnemonic : String)
  deriving DecidableEq, Repr

/-- R26: "When `OVF_VALID = 0`, the block holds `OVF_BUCKET = 0` and `OVF_VALUE = 0`". -/
def Slot.empty : Slot := ⟨false, 0#16, 0#8⟩

/-- The representation fields right after a reset (R44). P = 0, so the register file is the one entry NIB[0] (R20,
R23), whose value the spec leaves open (log entry 5). -/
def Dense.afterReset (nib0 : Nibble) : Dense := ⟨0#5, 0#8, 0#17, [nib0], Slot.empty⟩

/-- The machine right after reset (R44), in the default configuration, with no input pending. -/
def State.reset : State where
  valid := false
  rep := Dense.afterReset (Config.resetNib 0)
  cfg := HwConfig.default
  inputs := []
  responses := []
  freeIndex := 1

end Machine
end Sys2Proof
end

