-- ==== Sys2Proof/Machine/Ops.lean ====
section
/-! DEFINITION. The named operations on the block's state: the register file, the overflow slot, answering a command,
failing a command (the block's only "exception", spec/60_exceptions.md R262), the reset event, and taking the next
input. -/

namespace Sys2Proof
namespace Machine

/-! ## The register file and the slot (spec/10_state.md) -/

/-- m = 2^P (R22). -/
def Dense.m (D : Dense) : Nat := 2 ^ D.p.toNat

/-- `NIB[b]` (R23). Every rule reads below m only; the 0 beyond the end is never used (log entry 14). -/
def Dense.nibAt (D : Dense) (b : Nat) : Nibble := D.nib.getD b 0#4

/-- The canonical form of the register file: exactly 2^P entries (R20, R23). -/
def NibFile.wf (p : Nat) (nib : List Nibble) : Bool := decide (nib.length = 2 ^ p)

/-- "number of b in [0, m) with NIB[b] = 0" (R28 I1). -/
def zeroCount (nib : List Nibble) : Nat := nib.count 0#4

/-- The excess a bucket has from the slot: `OVF_VALUE if OVF_VALID = 1 and OVF_BUCKET = b else 0` (R27). -/
def Slot.excessOf (o : Slot) (b : Nat) : Nat := if o.valid = true ∧ o.bucket.toNat = b then o.value.toNat else 0

/-- `value(b)` (R27). -/
def Dense.value (D : Dense) (b : Nat) : Nat := D.baseline.toNat + (D.nibAt b).toNat + D.ovf.excessOf b

/-- value(0), value(1), ..., value(m-1). -/
def Dense.values (D : Dense) : List Nat :=
  D.nib.zipIdx.map fun x => D.baseline.toNat + x.1.toNat + D.ovf.excessOf x.2

/-- The slot's one policy, "replace-if-strictly-greater" (42_register_update.md R142; 44_merge.md R192): bucket b with
excess e takes the slot if e exceeds OVF_VALUE. -/
def Slot.claim (o : Slot) (b e : Nat) : Slot :=
  if o.value.toNat < e then ⟨true, BitVec.ofNat 16 b, BitVec.ofNat 8 e⟩ else o

/-- `fresh(p)` (42_register_update.md R140). -/
def fresh (p : Nat) : Dense where
  p := BitVec.ofNat 5 p
  baseline := 0#8
  baselineCount := BitVec.ofNat 17 (2 ^ p)
  nib := List.replicate (2 ^ p) 0#4
  ovf := Slot.empty

/-- The block holds the representation D: `state <- D; VALID <- 1` (R140, 45_image_packer.md R222). -/
def State.hold (s : State) (D : Dense) : State := { s with valid := true, rep := D }

/-- The block's representation becomes D, in place (42_register_update.md R143, 44_merge.md R192). -/
def State.update (s : State) (D : Dense) : State := { s with rep := D }

/-! ## Responses (spec/30_encoding.md R73, spec/60_exceptions.md R260 to R262) -/

/-- The code of a status (R260). -/
def Status.code : Status → BitVec 4
  | .ok => 0#4
  | .illegalCommand => 1#4
  | .notInitialized => 2#4
  | .invalidArgument => 3#4
  | .formatRetired => 4#4
  | .formatUnknown => 5#4
  | .formatCorrupt => 6#4
  | .precisionMismatch => 7#4
  | .unsupportedPrecision => 8#4
  | .unrepresentable => 9#4
  | .invariantViolation => 10#4

/-- The response is delivered to the host, after all earlier ones (20_memory.md R60). -/
def State.deliver (s : State) (r : Response) : State := { s with responses := s.responses ++ [r] }

/-- `respond(data, image)` of 00_scope.md R8: status OK. -/
def okResponse (data : Data) (img : Option Image) : Response := ⟨Status.ok.code, data, img⟩

/-- `fail <STATUS>(data)` of 00_scope.md R8: no image; the data is 0 but for VERIFY (R73). -/
def failResponse (st : Status) (data : Data) : Response := ⟨st.code, data, none⟩

/-- A command ends with status OK in the state s. -/
def respond (data : Data) (img : Option Image) (s : State) : Host.Outcome State Fault Refusal :=
  .next (s.deliver (okResponse data img))

/-- A command fails with data (VERIFY only, 46_control.md R241). -/
def failWithData (st : Status) (data : Data) (s : State) : Host.Outcome State Fault Refusal :=
  .next (s.deliver (failResponse st data))

/-- A command fails: the status is delivered with data 0, and the state "is exactly what it was before the command"
(00_scope.md R8, 60_exceptions.md R262). The one shared operation for every failure. -/
def fail (st : Status) (s : State) : Host.Outcome State Fault Refusal := failWithData st 0#64 s

/-- The check "if VALID = 0: fail NOT_INITIALIZED" that begins every command that needs a representation
(60_exceptions.md R261, R263). -/
def requireValid (s : State) (k : Host.Outcome State Fault Refusal) : Host.Outcome State Fault Refusal :=
  if s.valid then k else fail .notInitialized s

/-- A command that does not decode (30_encoding.md R75 to R78). -/
def illegalCommand (s : State) : Host.Outcome State Fault Refusal := fail .illegalCommand s

/-! ## Inputs and the reset event -/

/-- The oldest input, and the state without it. -/
def State.takeInput (s : State) : Option (Input × State) :=
  match s.inputs with
  | [] => none
  | x :: rest => some (x, { s with inputs := rest })

/-- The reset event (70_reset_and_hazards.md R290): every field of R44 at its reset value, NIB a fresh free value; the
parameters, the responses already delivered and what the host does next are not state of the block and stay. -/
def State.resetEvent (s : State) : State :=
  { s with valid := false, rep := Dense.afterReset (Config.resetNib s.freeIndex), freeIndex := s.freeIndex + 1 }

end Machine
end Sys2Proof
end

