-- ==== Sys2Proof/Machine/Operands.lean ====
section
/-! DEFINITION. Operands and results: the checks on operand fields (spec/30_encoding.md R72), the big-endian fields of
an image (spec/00_scope.md R8, spec/20_memory.md R53), and the layouts of DATA. -/

namespace Sys2Proof
namespace Machine

/-- A dense precision: an integer in [1, 16] (00_scope.md R5; 42_register_update.md R140). -/
def densePrecision (p : Nat) : Bool := decide (1 ≤ p) && decide (p ≤ 16)

/-- A sparse precision: an integer in [1, 26] (41_sparse_converter.md R122). -/
def sparsePrecision (p : Nat) : Bool := decide (1 ≤ p) && decide (p ≤ 26)

/-- A bucket operand: below m (20_memory.md R51). -/
def legalBucket (D : Dense) (b : BitVec 16) : Bool := decide (b.toNat < D.m)

/-- `img[k]` (00_scope.md R8). Every rule checks the length first; the 0 beyond the end is never used (log entry 14). -/
def imgByte (img : Image) (k : Nat) : Byte := img.getD k 0#8

/-- `BE16(img, k)` (00_scope.md R8). -/
def be16 (img : Image) (k : Nat) : BitVec 16 := imgByte img k ++ imgByte img (k + 1)

/-- `BE32(img, k)` (00_scope.md R8). -/
def be32 (img : Image) (k : Nat) : BitVec 32 :=
  imgByte img k ++ imgByte img (k + 1) ++ imgByte img (k + 2) ++ imgByte img (k + 3)

/-- The length of a dense image, m/2 + 6 (45_image_packer.md R210). -/
def denseImageSize (p : Nat) : Nat := 2 ^ p / 2 + 6

/-- DATA of DECODE_HASH: `{zext_40(0), zext_8(v), zext_16(b)}` (40_hash_lzc.md R104). -/
def hashData (b v : Nat) : Data := 0#40 ++ BitVec.ofNat 8 v ++ BitVec.ofNat 16 b

/-- DATA of INSERT and INSERT_HASH: `{zext_39(0), changed, zext_8(v), zext_16(b)}` (42_register_update.md R143). -/
def updateData (changed : Bool) (b v : Nat) : Data :=
  0#39 ++ BitVec.ofBool changed ++ BitVec.ofNat 8 v ++ BitVec.ofNat 16 b

/-- DATA of READ_BUCKET: `{zext_43(0), o, NIB[b], zext_16(value(b))}` (46_control.md R242). -/
def bucketData (D : Dense) (b : Nat) : Data :=
  0#43 ++ BitVec.ofBool (D.ovf.valid && decide (D.ovf.bucket.toNat = b)) ++ D.nibAt b ++ BitVec.ofNat 16 (D.value b)

/-- DATA of LOAD_IMAGE: `{zext_48(0), zext_8(D.P), zext_8(IMG[0])}` (45_image_packer.md R222). -/
def loadData (D : Dense) (img : Image) : Data := 0#48 ++ D.p.setWidth 8 ++ imgByte img 0

end Machine
end Sys2Proof
end

