-- ==== Sys2Proof/Machine/Flags.lean ====
section
/-! DEFINITION. The computed conditions of the block. It has no flags register (spec/10_state.md R31); these are the
bits its responses and its choices are made from. -/

namespace Sys2Proof
namespace Machine

/-- The `changed` bit (42_register_update.md R145): any of BASELINE, BASELINE_COUNT, NIB, OVF_VALID, OVF_BUCKET,
OVF_VALUE differs. -/
def changed (before after : Dense) : Bool :=
  decide (before.baseline ≠ after.baseline) || decide (before.baselineCount ≠ after.baselineCount) ||
  decide (before.nib ≠ after.nib) || decide (before.ovf ≠ after.ovf)

/-- f[0] of VERIFY (46_control.md R241): I1 is broken. -/
def countWrong (D : Dense) : Bool := decide (D.baselineCount.toNat ≠ zeroCount D.nib)

/-- f[1] of VERIFY: I2 is broken in the slot's nibble. -/
def slotNibbleWrong (D : Dense) : Bool :=
  D.ovf.valid && decide (D.ovf.bucket.toNat < D.m) && decide (D.nibAt D.ovf.bucket.toNat ≠ 15#4)

/-- f[2] of VERIFY: I2 is broken in the slot's range. -/
def slotRangeWrong (D : Dense) : Bool := D.ovf.valid && decide (D.m ≤ D.ovf.bucket.toNat)

/-- f[3] of VERIFY: I3 is broken. -/
def emptySlotWrong (D : Dense) : Bool :=
  !D.ovf.valid && (decide (D.ovf.value ≠ 0#8) || decide (D.ovf.bucket ≠ 0#16))

/-- The flag word f of VERIFY. -/
def verifyFlags (D : Dense) : Data :=
  0#60 ++ BitVec.ofBool (emptySlotWrong D) ++ BitVec.ofBool (slotRangeWrong D) ++
    BitVec.ofBool (slotNibbleWrong D) ++ BitVec.ofBool (countWrong D)

/-- The small-cardinality regime, an exact integer comparison (43_cardinality.md R171). -/
def smallRegime (D : Dense) : Bool := decide (D.baseline = 0#8) && decide (2 * D.m < 5 * D.baselineCount.toNat)

end Machine
end Sys2Proof
end

