-- ==== Sys2Proof/Machine/HashPipe.lean ====
section
/-! DEFINITION. The hash front end and the leading-zero counter (spec/40_hash_lzc.md R100 to R104). -/

namespace Sys2Proof
namespace Machine

/-- `clz64(x)`: the number of consecutive 0 bits from bit 63 downward, 64 for 0 (00_scope.md R7). -/
def clz64 (x : BitVec 64) : Nat := 64 - bitlen x.toNat

/-- `bucket_index(h, bits) = h >> (64 - bits)` (R100). -/
def bucketIndex (h : Hash) (bits : Nat) : Nat := (h >>> (64 - bits)).toNat

/-- `leading_zero_run(h, bits) = clz64(((h << bits) mod 2^64) OR 2^(bits - 1))` (R101): the guard bit stops the count. -/
def leadingZeroRun (h : Hash) (bits : Nat) : Nat := clz64 ((h <<< bits) ||| (1#64 <<< (bits - 1)))

/-- `register_value(h, bits) = leading_zero_run(h, bits) + 1` (R102). -/
def registerValue (h : Hash) (bits : Nat) : Nat := leadingZeroRun h bits + 1

/-- `DECODE_HASH` (R104): the LZC pipe's pair at the current P (R103); no state is written. -/
def execDecodeHash (hash : Hash) (s : State) : Host.Outcome State Fault Refusal :=
  requireValid s (respond (hashData (bucketIndex hash s.rep.p.toNat) (registerValue hash s.rep.p.toNat)) none s)

end Machine
end Sys2Proof
end

