-- ==== Sys2Proof/Machine/Update.lean ====
section
/-! DEFINITION. Initialisation and max-update (spec/42_register_update.md R140 to R149): the baseline-raise procedure,
`insert_core`, and the commands INIT, INSERT, INSERT_HASH. -/

namespace Sys2Proof
namespace Machine

/-! ## The baseline raise (R146, R147) -/

/-- One visit of bucket b in a raise pass, R146's three branches as written. The model runs a whole pass at once,
`raisePass`; this is what one turn of R146's inner loop does. -/
def raiseVisit (D : Dense) (b : Nat) : Dense :=
  if D.ovf.valid = true ∧ b = D.ovf.bucket.toNat ∧ 0 < D.ovf.value.toNat then
    { D with ovf := { D.ovf with value := D.ovf.value - 1#8 } }
  else if D.ovf.valid = true ∧ b = D.ovf.bucket.toNat then
    { D with ovf := { D.ovf with valid := false, bucket := 0#16 }, nib := D.nib.set b (D.nibAt b - 1#4) }
  else
    { D with
      nib := D.nib.set b (D.nibAt b - 1#4)
      baselineCount := if D.nibAt b - 1#4 = 0#4 then D.baselineCount + 1#17 else D.baselineCount }

/-- The slot's bucket keeps its nibble in this pass: it absorbs the pass from its excess (R146, first branch). -/
def Slot.absorbs (o : Slot) (b : Nat) : Bool :=
  o.valid && decide (o.bucket.toNat = b) && decide (0 < o.value.toNat)

/-- The slot after a pass (R146, first and second branch). -/
def Slot.afterPass (o : Slot) : Slot :=
  if o.valid = true then
    if 0 < o.value.toNat then { o with value := o.value - 1#8 } else { o with valid := false, bucket := 0#16 }
  else o

/-- The nibbles after a pass: each loses 1, but for a slot's bucket that absorbs it. -/
def nibAfterPass (o : Slot) (nib : List Nibble) : List Nibble :=
  nib.zipIdx.map fun x => if o.absorbs x.2 then x.1 else x.1 - 1#4

/-- One full pass of R146 over all buckets, "order immaterial": BASELINE + 1, every bucket visited once, BASELINE_COUNT
the number of buckets whose nibble becomes 0 (it was 0; the second branch leaves 14, so it never counts). -/
def raisePass (D : Dense) : Dense where
  p := D.p
  baseline := D.baseline + 1#8
  baselineCount := BitVec.ofNat 17 (zeroCount (nibAfterPass D.ovf D.nib))
  nib := nibAfterPass D.ovf D.nib
  ovf := D.ovf.afterPass

/-- The while loop of R146 with at most n passes. -/
def raiseLoop : Nat → Dense → Dense
  | 0, D => D
  | n + 1, D => if D.baselineCount = 0#17 then raiseLoop n (raisePass D) else D

/-- `raise_baseline(D)` (R146): passes while BASELINE_COUNT = 0, stopping at BASELINE = 255 (R147), so at most
255 - BASELINE of them. -/
def raiseBaseline (D : Dense) : Dense := raiseLoop (255 - D.baseline.toNat) D

/-! ## insert_core (R142) -/

/-- The stored delta: clamped to 15. -/
def clampDelta (delta : Nat) : Nat := min delta 15

/-- The slot after bucket b got the delta `delta`: claimed when the delta exceeds 15 by more than the slot's excess. -/
def slotAfterDelta (o : Slot) (b delta : Nat) : Slot := if 15 < delta then o.claim b (delta - 15) else o

/-- `insert_core(D, b, v)` (R142) once `delta > NIB[b]` is known, before the raise. -/
def writeDelta (D : Dense) (b delta : Nat) : Dense where
  p := D.p
  baseline := D.baseline
  baselineCount := if D.nibAt b = 0#4 then D.baselineCount - 1#17 else D.baselineCount
  nib := D.nib.set b (BitVec.ofNat 4 (clampDelta delta))
  ovf := slotAfterDelta D.ovf b delta

/-- "If the bucket's previous delta was 0, decrement `baseline_count` and, if it reaches 0, raise the baseline": D is the
state before, E the state with the nibble written. -/
def raiseIfEmptied (D : Dense) (b : Nat) (E : Dense) : Dense :=
  if D.nibAt b = 0#4 ∧ E.baselineCount = 0#17 then raiseBaseline E else E

/-- `insert_core(D, b, v)` (R142): the max-update. `delta <= NIB[b]` is tested on integers, as v <= BASELINE + NIB[b].
The stored value can be below the largest value inserted (10_state.md R30), and then the same value can be taken again
after a raise, whatever 20_memory.md R58 infers (log entry 11). -/
def insertCore (D : Dense) (b v : Nat) : Dense :=
  if v ≤ D.baseline.toNat + (D.nibAt b).toNat then D
  else raiseIfEmptied D b (writeDelta D b (v - D.baseline.toNat))

/-! ## The commands -/

/-- `INIT` (R140). It does not need VALID = 1. -/
def execInit (p : BitVec 8) (s : State) : Host.Outcome State Fault Refusal :=
  if densePrecision p.toNat then respond 0#64 none (s.hold (fresh p.toNat)) else fail .invalidArgument s

/-- `INSERT` (R143). -/
def execInsert (bucket : BitVec 16) (value : BitVec 8) (s : State) : Host.Outcome State Fault Refusal :=
  requireValid s <|
    if legalBucket s.rep bucket then
      respond (updateData (changed s.rep (insertCore s.rep bucket.toNat value.toNat)) bucket.toNat value.toNat) none
        (s.update (insertCore s.rep bucket.toNat value.toNat))
    else fail .invalidArgument s

/-- The max-update of INSERT_HASH once the hash is decoded. -/
def insertDecoded (b v : Nat) (s : State) : Host.Outcome State Fault Refusal :=
  respond (updateData (changed s.rep (insertCore s.rep b v)) b v) none (s.update (insertCore s.rep b v))

/-- `INSERT_HASH` (R144). The bucket of a hash is always below m, so there is no bucket check. -/
def execInsertHash (hash : Hash) (s : State) : Host.Outcome State Fault Refusal :=
  requireValid s (insertDecoded (bucketIndex hash s.rep.p.toNat) (registerValue hash s.rep.p.toNat) s)

end Machine
end Sys2Proof
end

