-- ==== Sys2Proof/Machine/Sparse.lean ====
section
/-! DEFINITION. The sparse-to-dense converter (spec/41_sparse_converter.md R120 to R125). -/

namespace Sys2Proof
namespace Machine

/-- `IDX`, bits [31:6] of a sparse entry (R120). -/
def entryIdx (e : SparseEntry) : Nat := (e.extractLsb' 6 26).toNat

/-- `V`, bits [5:0] of a sparse entry (R120). -/
def entryV (e : SparseEntry) : Nat := (e.extractLsb' 0 6).toNat

/-- The entry a hash has (R120); built by the host's software, and used to state R125. -/
def sparseEntry (h : Hash) : SparseEntry :=
  BitVec.ofNat 26 (bucketIndex h 26) ++ BitVec.ofNat 6 (leadingZeroRun h 26)

/-- One entry of an image, big-endian (R121). -/
def entryBytes (e : SparseEntry) : List Byte :=
  [e.extractLsb' 24 8, e.extractLsb' 16 8, e.extractLsb' 8 8, e.extractLsb' 0 8]

/-- The Sparse v2 image layout (R121), for at most 65535 entries; built by the host's software, and used to state what
the parser accepts. -/
def sparseImage (tag p : Byte) (es : List SparseEntry) : Image :=
  [tag, p, (BitVec.ofNat 16 es.length).extractLsb' 8 8, (BitVec.ofNat 16 es.length).extractLsb' 0 8] ++
    es.flatMap entryBytes

/-- The entries of an image, from entry k on, n of them (R121). -/
def sparseEntries (img : Image) (k : Nat) : Nat → List SparseEntry
  | 0 => []
  | n + 1 => be32 img (4 + 4 * k) :: sparseEntries img (k + 1) n

/-- "Entries must appear in ascending extended-bucket-index order", with no duplicate (R122). -/
def ascending : List SparseEntry → Bool
  | a :: b :: rest => decide (entryIdx a < entryIdx b) && ascending (b :: rest)
  | [_] => true
  | [] => true

/-- `parse_sparse(img)` (R122), the checks in the rule's order. -/
def parseSparse (img : Image) : Except Status (Nat × List SparseEntry) :=
  if img.length < 4 then .error .formatCorrupt
  else if sparsePrecision (imgByte img 1).toNat = false then .error .formatCorrupt
  else if img.length ≠ 4 + 4 * (be16 img 2).toNat then .error .formatCorrupt
  else if ascending (sparseEntries img 0 (be16 img 2).toNat) = false then .error .formatCorrupt
  else if 16 < (imgByte img 1).toNat then .error .unsupportedPrecision
  else .ok ((imgByte img 1).toNat, sparseEntries img 0 (be16 img 2).toNat)

/-- The leading zeros of the remainder r in a field of w bits, and on into V when r = 0 (R123). -/
def entryZeros (w r v : Nat) : Nat := if r ≠ 0 then w - bitlen r else w + v

/-- The dense bucket of an entry: the top p bits of its 26-bit index (R123). -/
def entryBucket (p : Nat) (e : SparseEntry) : Nat := entryIdx e >>> (26 - p)

/-- The register value of an entry (R123). -/
def entryValue (p : Nat) (e : SparseEntry) : Nat :=
  entryZeros (26 - p) (entryIdx e % 2 ^ (26 - p)) (entryV e) + 1

/-- `convert_entry(p, e)` (R123). -/
def convertEntry (p : Nat) (e : SparseEntry) : Nat × Nat := (entryBucket p e, entryValue p e)

/-- `to_dense(p, e[0 .. n-1])` (R124): every entry inserted into a fresh representation, in image order. -/
def toDense (p : Nat) (es : List SparseEntry) : Dense :=
  es.foldl (fun D e => insertCore D (entryBucket p e) (entryValue p e)) (fresh p)

end Machine
end Sys2Proof
end

