-- ==== Sys2Proof/Machine/ImagePacker.lean ====
section
/-! DEFINITION. The dense-image bit-packer and the tag router (spec/45_image_packer.md R210 to R222), with the commands
STORE_IMAGE and LOAD_IMAGE. -/

namespace Sys2Proof
namespace Machine

/-- `pack_byte`: two nibbles a byte, the even bucket in the high nibble (R211, 20_memory.md R52). m is even for every
legal P, so no nibble is left over. -/
def packNibbles : List Nibble → List Byte
  | a :: b :: rest => (a ++ b : BitVec 8) :: packNibbles rest
  | [_] => []
  | [] => []

/-- `unpack_byte` (R211). -/
def unpackNibbles : List Byte → List Nibble
  | x :: rest => x.extractLsb' 4 4 :: x.extractLsb' 0 4 :: unpackNibbles rest
  | [] => []

/-- The overflow_bucket field U: 0xFFFF for none, else the bucket (R212). -/
def slotField (o : Slot) : BitVec 16 := if o.valid then o.bucket else 0xFFFF#16

/-- `serialize(S)` (R213). -/
def serialize (cfg : HwConfig) (D : Dense) : Image :=
  [cfg.tagDenseV1, D.p.setWidth 8, D.baseline] ++ packNibbles D.nib ++
    [(slotField D.ovf).extractLsb' 8 8, (slotField D.ovf).extractLsb' 0 8, D.ovf.value]

/-- No image can hold the state: the slot is on bucket 65535 (R212, R214). -/
def unrepresentable (D : Dense) : Bool := D.ovf.valid && decide (D.ovf.bucket = 0xFFFF#16)

/-- The delta bytes of a dense image of precision p (R210). -/
def deltaBytes (p : Nat) (img : Image) : List Byte := (img.drop 3).take (2 ^ p / 2)

/-- The register file a dense image holds (R211). -/
def imageNib (p : Nat) (img : Image) : List Nibble := unpackNibbles (deltaBytes p img)

/-- The overflow_bucket field of a dense image (R210). -/
def imageU (p : Nat) (img : Image) : BitVec 16 := be16 img (3 + 2 ^ p / 2)

/-- The overflow_value field of a dense image (R210). -/
def imageOv (p : Nat) (img : Image) : BitVec 8 := imgByte img (5 + 2 ^ p / 2)

/-- The representation of a dense image with the slot o: BASELINE_COUNT is recomputed, and nothing is raised (R216,
R217). -/
def imageDense (p : Nat) (img : Image) (o : Slot) : Dense where
  p := BitVec.ofNat 5 p
  baseline := imgByte img 2
  baselineCount := BitVec.ofNat 17 (zeroCount (imageNib p img))
  nib := imageNib p img
  ovf := o

/-- The checks of R216 on the overflow field, and the representation. -/
def parseDenseBody (p : Nat) (img : Image) : Except Status Dense :=
  if imageU p img = 0xFFFF#16 then
    if imageOv p img ≠ 0#8 then .error .formatCorrupt else .ok (imageDense p img Slot.empty)
  else if 2 ^ p ≤ (imageU p img).toNat then .error .formatCorrupt
  else if (imageNib p img).getD (imageU p img).toNat 0#4 ≠ 15#4 then .error .formatCorrupt
  else .ok (imageDense p img ⟨true, imageU p img, imageOv p img⟩)

/-- `parse_dense(img)` (R216), the checks in the rule's order. -/
def parseDense (img : Image) : Except Status Dense :=
  if img.length < 2 then .error .formatCorrupt
  else if densePrecision (imgByte img 1).toNat = false then .error .formatCorrupt
  else if img.length ≠ denseImageSize (imgByte img 1).toNat then .error .formatCorrupt
  else parseDenseBody (imgByte img 1).toNat img

/-- The converter's half of R215: `to_dense(parse_sparse(img))`. -/
def convertSparse (img : Image) : Except Status Dense :=
  match parseSparse img with
  | .error st => .error st
  | .ok pe => .ok (toDense pe.1 pe.2)

/-- `parse_image(img)` (R215): the tag decides. -/
def parseImage (cfg : HwConfig) (img : Image) : Except Status Dense :=
  if img.length < 1 then .error .formatCorrupt
  else if imgByte img 0 = cfg.tagSparseV1 then .error .formatRetired
  else if imgByte img 0 = cfg.tagSparseV2 then convertSparse img
  else if imgByte img 0 = cfg.tagDenseV1 ∧ cfg.hasPacker = true then parseDense img
  else .error .formatUnknown

/-- "`STORE_IMAGE` is an illegal command" in a block without the packer (R218), before any other check
(60_exceptions.md R263). Decode refuses the word there (30_encoding.md R77), so that a step answers the same. -/
def requirePacker (s : State) (k : Host.Outcome State Fault Refusal) : Host.Outcome State Fault Refusal :=
  if s.cfg.hasPacker then k else illegalCommand s

/-- `STORE_IMAGE` (R214). -/
def execStoreImage (s : State) : Host.Outcome State Fault Refusal :=
  requirePacker s <| requireValid s <|
    if unrepresentable s.rep then fail .unrepresentable s
    else respond (BitVec.ofNat 64 (serialize s.cfg s.rep).length) (some (serialize s.cfg s.rep)) s

/-- `LOAD_IMAGE` (R222). It does not need VALID = 1. -/
def execLoadImage (img : Image) (s : State) : Host.Outcome State Fault Refusal :=
  match parseImage s.cfg img with
  | .error st => fail st s
  | .ok D => respond (loadData D img) none (s.hold D)

end Machine
end Sys2Proof
end

