-- ==== Sys2Proof/Machine/Merge.lean ====
section
/-! DEFINITION. Merge (spec/44_merge.md R190 to R193). -/

namespace Sys2Proof
namespace Machine

/-- V[0 .. m-1] (R191). -/
def mergedValues (S O : Dense) : List Nat := List.zipWith max S.values O.values

/-- `max(S.BASELINE, O.BASELINE)` (R192). -/
def mergedBase (S O : Dense) : BitVec 8 := if S.baseline.toNat ≤ O.baseline.toNat then O.baseline else S.baseline

/-- The slot of the rebuild: buckets scanned in ascending order, each with an excess claiming it (R192). -/
def rebuiltSlot (base : Nat) (V : List Nat) : Slot :=
  V.zipIdx.foldl (fun o x => slotAfterDelta o x.2 (x.1 - base)) Slot.empty

/-- The nibbles of the rebuild: every delta clamped to 15 (R192). -/
def rebuiltNib (base : Nat) (V : List Nat) : List Nibble := V.map fun v => BitVec.ofNat 4 (clampDelta (v - base))

/-- The rebuild of R192 before the raise. -/
def rebuild (p : BitVec 5) (base : BitVec 8) (V : List Nat) : Dense where
  p := p
  baseline := base
  baselineCount := BitVec.ofNat 17 (zeroCount (rebuiltNib base.toNat V))
  nib := rebuiltNib base.toNat V
  ovf := rebuiltSlot base.toNat V

/-- `merge_core(S, O)` (R192). `raiseBaseline` does nothing unless BASELINE_COUNT = 0. -/
def mergeCore (S O : Dense) : Dense := raiseBaseline (rebuild S.p (mergedBase S O) (mergedValues S O))

/-- `MERGE_IMAGE` (R190). -/
def execMergeImage (img : Image) (s : State) : Host.Outcome State Fault Refusal :=
  requireValid s <|
    match parseImage s.cfg img with
    | .error st => fail st s
    | .ok O =>
      if O.p = s.rep.p then respond ((imgByte img 0).setWidth 64) none (s.update (mergeCore s.rep O))
      else fail .precisionMismatch s

end Machine
end Sys2Proof
end

