-- ==== Sys2Proof/Machine/Cardinality.lean ====
section
/-! DEFINITION. The cardinality pipe (spec/43_cardinality.md R170 to R178). -/

namespace Sys2Proof
namespace Machine

/-- `fl(n)` of a natural number. -/
def natTo64 (n : Nat) : Binary64 := fl (n : Int) 1

/-- `linear_counting(z, m)` (R172), for a logarithm ln. -/
def linearCounting (ln : Binary64 → Binary64) (z m : Nat) : Binary64 :=
  mul64 (natTo64 m) (ln (div64 (natTo64 m) (natTo64 z)))

/-- The exact sum over the buckets of 2^-value(b), times 2^525; value(b) is at most 525 (R173, 10_state.md R27). -/
def harmonicUnits (values : List Nat) : Nat := (values.map fun v => 2 ^ (525 - v)).sum

/-- `S` (R173): the exact sum, rounded once. -/
def harmonicSum (D : Dense) : Binary64 := fl (harmonicUnits D.values : Int) (2 ^ 525)

/-- `alpha(p)` (R174). -/
def alpha (p : Nat) : Binary64 :=
  if p = 4 then fl 673 1000
  else if p = 5 then fl 697 1000
  else if p = 6 then fl 709 1000
  else div64 (fl 7213 10000) (add64 (fl 1 1) (div64 (fl 1079 1000) (natTo64 (2 ^ p))))

/-- `E` (R175). -/
def rawEstimate (D : Dense) : Binary64 :=
  div64 (mul64 (alpha D.p.toNat) (natTo64 (D.m * D.m))) (harmonicSum D)

/-- The interpolated bias between two neighbouring points (R176), in the rule's evaluation order. -/
def interpolate (lo hi : BiasPoint) (e : Binary64) : Binary64 :=
  add64 (div64 (mul64 (sub64 e lo.raw) (sub64 hi.bias lo.bias)) (sub64 hi.raw lo.raw)) lo.bias

/-- The bias at e for e inside the table's range: at the least point with R_i >= e, its own bias on an exact hit, else
interpolated from the point before it (R176). -/
def biasAt (e : Binary64) : BiasTable → Binary64
  | lo :: hi :: rest =>
    if lo.raw = e then lo.bias
    else if lt64 hi.raw e then biasAt e (hi :: rest)
    else if hi.raw = e then hi.bias
    else interpolate lo hi e
  | [q] => q.bias
  | [] => zero64

/-- e lies outside the table's range, or the table is empty (R176). -/
def outsideTable (t : BiasTable) (e : Binary64) : Bool :=
  match t.head?, t.getLast? with
  | some first, some last => lt64 e first.raw || lt64 last.raw e
  | _, _ => true

/-- `bias_correct(E, P)` (R176). -/
def biasCorrect (t : BiasTable) (e : Binary64) : Binary64 :=
  if outsideTable t e then e else sub64 e (biasAt e t)

/-- The estimate before rounding, in the regime of R171. -/
def estimate (cfg : HwConfig) (D : Dense) : Binary64 :=
  if smallRegime D then linearCounting (lnOfConfig cfg) D.baselineCount.toNat D.m
  else biasCorrect (cfg.biasTable D.p.toNat) (rawEstimate D)

/-- `floor(x + 1/2)` for x of n units (R177). -/
def floorHalf (n : Int) : Int := (2 * n + (unitsInOne : Int)) / (2 * (unitsInOne : Int))

/-- The clamp of R177 to the signed 64-bit range. -/
def clamp64 (x : Int) : Int := max (-9223372036854775808) (min x 9223372036854775807)

/-- `twos_complement_64(round(x))` (R177). The rule is on a real x; of an infinity or a not-a-number it states no
integer, and a free value stands there (log entry 6). -/
def roundTo64 : Binary64 → Data
  | .fin n => BitVec.ofInt 64 (clamp64 (floorHalf n))
  | .posInf => Config.roundNonFinite .posInf
  | .negInf => Config.roundNonFinite .negInf
  | .nan => Config.roundNonFinite .nan

/-- `CARDINALITY` (R170). -/
def execCardinality (s : State) : Host.Outcome State Fault Refusal :=
  requireValid s (respond (roundTo64 (estimate s.cfg s.rep)) none s)

end Machine
end Sys2Proof
end

