-- ==== Sys2Proof/Machine/Control.lean ====
section
/-! DEFINITION. NOP, VERIFY, READ_BUCKET and READ_CSR (spec/46_control.md R240 to R243), with the CSR view of
spec/10_state.md R33 to R42. -/

namespace Sys2Proof
namespace Machine

/-- `NOP` (R240). -/
def execNop (s : State) : Host.Outcome State Fault Refusal := respond 0#64 none s

/-- `VERIFY` (R241). -/
def execVerify (s : State) : Host.Outcome State Fault Refusal :=
  requireValid s <|
    if verifyFlags s.rep ≠ 0#64 then failWithData .invariantViolation (verifyFlags s.rep) s else respond 0#64 none s

/-- `READ_BUCKET` (R242). -/
def execReadBucket (bucket : BitVec 16) (s : State) : Host.Outcome State Fault Refusal :=
  requireValid s <|
    if legalBucket s.rep bucket then respond (bucketData s.rep bucket.toNat) none s else fail .invalidArgument s

/-- CSR 0x00 `STATUS` (10_state.md R33). -/
def csrStatus (s : State) : Data := 0#63 ++ BitVec.ofBool s.valid

/-- CSR 0x08 `HWCFG` (10_state.md R41): bits [39:32], [31:24], [23:16], bit 8 and bits [7:0]. -/
def csrHwcfg (cfg : HwConfig) : Data :=
  0#24 ++ cfg.tagSparseV1 ++ cfg.tagSparseV2 ++ cfg.tagDenseV1 ++ 0#7 ++ BitVec.ofBool cfg.hasPacker ++ 0x10#8

/-- The CSRs that need VALID (10_state.md R34 to R40); none for a reserved number (R42). -/
def csrOfRep (D : Dense) (csr : BitVec 8) : Option Data :=
  if csr = 0x01#8 then some (D.p.setWidth 64)
  else if csr = 0x02#8 then some (BitVec.ofNat 64 D.m)
  else if csr = 0x03#8 then some (D.baseline.setWidth 64)
  else if csr = 0x04#8 then some (D.baselineCount.setWidth 64)
  else if csr = 0x05#8 then some (0#47 ++ BitVec.ofBool D.ovf.valid ++ D.ovf.bucket)
  else if csr = 0x06#8 then some (D.ovf.value.setWidth 64)
  else if csr = 0x07#8 then some (BitVec.ofNat 64 (denseImageSize D.p.toNat))
  else none

/-- `READ_CSR` (R243). -/
def execReadCsr (csr : BitVec 8) (s : State) : Host.Outcome State Fault Refusal :=
  if csr = 0x00#8 then respond (csrStatus s) none s
  else if csr = 0x08#8 then respond (csrHwcfg s.cfg) none s
  else requireValid s <|
    match csrOfRep s.rep csr with
    | some data => respond data none s
    | none => fail .invalidArgument s

end Machine
end Sys2Proof
end

