-- ==== Sys2Proof/Machine/Dispatch.lean ====
section
/-! DEFINITION. One arm per command: each calls its own meaning. -/

namespace Sys2Proof
namespace Machine

def exec (i : Instr) (s : State) : Host.Outcome State Fault Refusal :=
  match i with
  | .nop => Sys2Proof.Machine.execNop s
  | .init p => Sys2Proof.Machine.execInit p s
  | .insert bucket value => Sys2Proof.Machine.execInsert bucket value s
  | .insertHash hash => Sys2Proof.Machine.execInsertHash hash s
  | .decodeHash hash => Sys2Proof.Machine.execDecodeHash hash s
  | .cardinality => Sys2Proof.Machine.execCardinality s
  | .mergeImage img => Sys2Proof.Machine.execMergeImage img s
  | .loadImage img => Sys2Proof.Machine.execLoadImage img s
  | .storeImage => Sys2Proof.Machine.execStoreImage s
  | .verify => Sys2Proof.Machine.execVerify s
  | .readBucket bucket => Sys2Proof.Machine.execReadBucket bucket s
  | .readCsr csr => Sys2Proof.Machine.execReadCsr csr s

end Machine
end Sys2Proof
end

