-- ==== Sys2Proof/Machine/Step.lean ====
section
/-! DEFINITION. One step: the oldest input, whole (spec/20_memory.md R57, R60). The block fetches nothing (R63): the
host's inputs are its only program. -/

namespace Sys2Proof
namespace Machine

/-- A command is decoded before any state is read (30_encoding.md R78), and one that does not decode fails. -/
def runCommand (c : Command) (s : State) : Host.Outcome State Fault Refusal :=
  match decode s.cfg.hasPacker c with
  | .ok i => exec i s
  | .error _ => illegalCommand s

/-- One step. With no input the block is idle and "the state persists" (60_exceptions.md R270; log entry 9). -/
def step (s : State) : Host.Outcome State Fault Refusal :=
  match s.takeInput with
  | none => .next s
  | some (.command c, s') => runCommand c s'
  | some (.reset _, s') => .next s'.resetEvent

/-- The host issues the opcode table's word w as the very next command (log entries 1 and 10). -/
def State.withFetchWord (s : State) (nbits w : Nat) : State :=
  { s with inputs := .command (tableCommand nbits w) :: s.inputs }

end Machine
end Sys2Proof
end

