-- ==== Sys2Proof/Safety.lean ====
section
/-! DEFINITION. What claims about the block are stated in: the invariants of spec/10_state.md R28, the form of a
response (spec/30_encoding.md R73, spec/60_exceptions.md R260, R262), and the block's own state apart from the
model's fields. -/

namespace Sys2Proof
namespace Machine

/-- R28 I1: BASELINE_COUNT is the number of zero nibbles. -/
abbrev Dense.CountRight (D : Dense) : Prop := D.baselineCount.toNat = zeroCount D.nib

/-- R28 I2: a recorded slot is on a bucket below m whose nibble is 15. -/
abbrev Dense.SlotRight (D : Dense) : Prop :=
  D.ovf.valid = true → D.ovf.bucket.toNat < D.m ∧ D.nibAt D.ovf.bucket.toNat = 15#4

/-- R28 I3: an empty slot holds zeros. -/
abbrev Dense.EmptySlotRight (D : Dense) : Prop := D.ovf.valid = false → D.ovf.value = 0#8 ∧ D.ovf.bucket = 0#16

/-- What every representation the block holds satisfies: a legal precision (R22), exactly m nibbles (R23), and I1 to
I3 (R28). -/
abbrev Dense.Inv (D : Dense) : Prop :=
  (1 ≤ D.p.toNat ∧ D.p.toNat ≤ 16) ∧ D.nib.length = D.m ∧ D.CountRight ∧ D.SlotRight ∧ D.EmptySlotRight

/-- The fields of R44 that the spec gives a reset value, at those values. -/
abbrev Dense.ControlReset (D : Dense) : Prop :=
  D.p = 0#5 ∧ D.baseline = 0#8 ∧ D.baselineCount = 0#17 ∧ D.ovf = Slot.empty ∧ D.nib.length = D.m

/-- A response in the form of R73 and R260: no reserved code; a failing command has no image, and data 0 but for
VERIFY's INVARIANT_VIOLATION. -/
abbrev Response.Good (r : Response) : Prop :=
  r.status.toNat ≤ 10 ∧ (r.status ≠ 0#4 → r.oimg = none) ∧ (r.status ≠ 0#4 → r.status ≠ 10#4 → r.data = 0#64)

/-- The invariant of the machine: the configuration is one of R6; while VALID = 1 the representation satisfies R28;
while VALID = 0 the control fields hold their reset values (R21, R44: only INIT and LOAD_IMAGE write them, and they
set VALID); every response delivered is well formed and reports no invariant violation (46_control.md R241). -/
abbrev State.Inv (s : State) : Prop :=
  s.cfg.wf = true ∧ (s.valid = true → s.rep.Inv) ∧ (s.valid = false → s.rep.ControlReset) ∧
  ∀ r ∈ s.responses, r.Good ∧ r.status ≠ 10#4

/-- The block's architectural state (R20) and its configuration are the same; only inputs, responses and the free
counter may differ. -/
abbrev State.SameBlock (s t : State) : Prop := t.valid = s.valid ∧ t.rep = s.rep ∧ t.cfg = s.cfg

/-- A run: some number of steps, each a next state. -/
inductive Reaches : State → State → Prop where
  | refl (s : State) : Reaches s s
  | step {s t u : State} (h : Machine.step s = .next t) (rest : Reaches t u) : Reaches s u

end Machine
end Sys2Proof
end

