-- ==== Sys2Proof/Certificates/Slice0/Obligations.lean ====
section
/-! DEFINITION. The statements for the provers. Each docstring names the rule of spec/ it formalises; OBLIGATIONS.json
lists them. -/

open Sys2Proof Sys2Proof.Machine

/-! ## Encoding (spec/30_encoding.md) -/

/-- A word of every command, written out from R71 and R74, decodes to it; words R75 to R77 forbid do not decode. -/
def Obligations.WrittenWordsDecode : Prop :=
  decode true ⟨0x000000000000000000000000#96, none⟩ = .ok .nop ∧
  decode true ⟨0x010400000000000000000000#96, none⟩ = .ok (.init 4#8) ∧
  decode true ⟨0x020300010000000000000000#96, none⟩ = .ok (.insert 1#16 3#8) ∧
  decode true ⟨0x030000000123456789ABCDEF#96, none⟩ = .ok (.insertHash 0x0123456789ABCDEF#64) ∧
  decode true ⟨0x040000001000000000000000#96, none⟩ = .ok (.decodeHash 0x1000000000000000#64) ∧
  decode true ⟨0x050000000000000000000000#96, none⟩ = .ok .cardinality ∧
  decode true ⟨0x060000000000000000000000#96, some [0x02#8]⟩ = .ok (.mergeImage [0x02#8]) ∧
  decode true ⟨0x070000000000000000000000#96, some []⟩ = .ok (.loadImage []) ∧
  decode true ⟨0x080000000000000000000000#96, none⟩ = .ok .storeImage ∧
  decode true ⟨0x090000000000000000000000#96, none⟩ = .ok .verify ∧
  decode true ⟨0x0A00000E0000000000000000#96, none⟩ = .ok (.readBucket 14#16) ∧
  decode true ⟨0x0B0300000000000000000000#96, none⟩ = .ok (.readCsr 3#8) ∧
  decode true ⟨0x0C0000000000000000000000#96, none⟩ = .error (.reservedOpcode 0x0C#8) ∧
  decode true ⟨0x010400000000000000000001#96, none⟩ = .error .nonzeroA64 ∧
  decode true ⟨0x050100000000000000000000#96, none⟩ = .error .nonzeroA8

/-- Decoding the encoding of a well-formed instruction gives it back, whatever its operands and image. -/
def Obligations.EncodedInstructionDecodesBack : Prop :=
  ∀ (hasPacker : Bool) (i : Instr), WellFormed hasPacker i = true → decode hasPacker (encode i) = .ok i

/-- Every command that decodes is the encoding of what it decodes to: no bit of a word is dropped, and each legal
command has one meaning. -/
def Obligations.DecodedCommandEncodesBack : Prop :=
  ∀ (hasPacker : Bool) (c : Command) (i : Instr), decode hasPacker c = .ok i →
    WellFormed hasPacker i = true ∧ encode i = c

/-- R78: "Each legal word matches exactly one row of `opcode_table.json`", and it is the instruction's own row. -/
def Obligations.LegalWordMatchesExactlyItsRow : Prop :=
  ∀ (hasPacker : Bool) (c : Command) (i : Instr), decode hasPacker c = .ok i →
    ∃ r ∈ opcodeTable, r.mnemonic = i.mnemonic ∧ matchingRows c.word = [r]

/-- R75: opcodes 0x0C to 0xFF answer ILLEGAL_COMMAND and change nothing, and no opcode but NOP's is a no-op. -/
def Obligations.ReservedOpcodesAreIllegal : Prop :=
  ∀ (s : State) (c : Command) (rest : List Input), s.inputs = .command c :: rest →
    0x0B < (opField c.word).toNat →
    step s = .next (({ s with inputs := rest } : State).deliver ⟨1#4, 0#64, none⟩)

/-- R76: a non-zero unused field is ILLEGAL_COMMAND and changes nothing; legality depends on the word and on whether an
image is present, never on the state. -/
def Obligations.UnusedFieldsMustBeZero : Prop :=
  (∀ (s : State) (c : Command) (rest : List Input), s.inputs = .command c :: rest →
    (opField c.word).toNat ≤ 0x0B →
    ((opField c.word ≠ 0x01#8 ∧ opField c.word ≠ 0x02#8 ∧ opField c.word ≠ 0x0B#8 ∧ a8Field c.word ≠ 0#8) ∨
     (opField c.word ≠ 0x02#8 ∧ opField c.word ≠ 0x0A#8 ∧ a16Field c.word ≠ 0#16) ∨
     (opField c.word ≠ 0x03#8 ∧ opField c.word ≠ 0x04#8 ∧ a64Field c.word ≠ 0#64)) →
    step s = .next (({ s with inputs := rest } : State).deliver ⟨1#4, 0#64, none⟩)) ∧
  (∀ (hasPacker : Bool) (w : CmdWord) (img img' : Option Image), img.isSome = img'.isSome →
    ((∃ i, decode hasPacker ⟨w, img⟩ = .ok i) ↔ (∃ i, decode hasPacker ⟨w, img'⟩ = .ok i)))

/-- R77: which commands carry an image, the empty image, and STORE_IMAGE without the packer. -/
def Obligations.ImagePresenceDecidesLegality : Prop :=
  (∀ (s : State) (c : Command) (rest : List Input), s.inputs = .command c :: rest →
    (((opField c.word = 0x06#8 ∨ opField c.word = 0x07#8) ∧ c.img = none) ∨
     (opField c.word ≠ 0x06#8 ∧ opField c.word ≠ 0x07#8 ∧ c.img ≠ none) ∨
     (opField c.word = 0x08#8 ∧ s.cfg.hasPacker = false)) →
    step s = .next (({ s with inputs := rest } : State).deliver ⟨1#4, 0#64, none⟩)) ∧
  (∀ (hasPacker : Bool) (img : Image),
    decode hasPacker ⟨packWord 0x06#8 0#8 0#16 0#64, some img⟩ = .ok (.mergeImage img) ∧
    decode hasPacker ⟨packWord 0x07#8 0#8 0#16 0#64, some img⟩ = .ok (.loadImage img))

/-! ## Steps, ordering, outputs (spec/20_memory.md, spec/60_exceptions.md) -/

/-- R57, R60, R78: a step takes the oldest command, decodes it and runs what it decodes to; the host's words likewise.
(That commands wait in a list of the state is the model's choice, log entry 1; so is the step with none, which R270's
"the state persists" gives, log entry 9.) -/
def Obligations.StepRunsDecodedInstruction : Prop :=
  (∀ (s : State) (c : Command) (rest : List Input), s.inputs = .command c :: rest →
    (∀ i, decode s.cfg.hasPacker c = .ok i → step s = exec i { s with inputs := rest }) ∧
    (∀ e, decode s.cfg.hasPacker c = .error e →
      step s = .next (({ s with inputs := rest } : State).deliver ⟨1#4, 0#64, none⟩))) ∧
  (∀ (s : State) (nbits w : Nat) (i : Instr), decode s.cfg.hasPacker (tableCommand nbits w) = .ok i →
    step (s.withFetchWord nbits w) = exec i s) ∧
  (∀ s : State, s.inputs = [] → step s = .next s)

/-- R264: no step stops the machine. -/
def Obligations.EveryStepAnswersNext : Prop := ∀ s : State, ∃ t, step s = .next t

/-- R60, R73: a command produces exactly one response, after all earlier ones, in the form of R73 with a code of R260;
no command changes the configuration. -/
def Obligations.OneResponsePerCommand : Prop :=
  ∀ (s : State) (c : Command) (rest : List Input), s.inputs = .command c :: rest →
    ∃ (t : State) (r : Response), step s = .next t ∧ t.responses = s.responses ++ [r] ∧ r.Good ∧
      t.inputs = rest ∧ t.cfg = s.cfg ∧ t.freeIndex = s.freeIndex

/-- R262: a failing command changes nothing; its response carries data 0 and no image, but for VERIFY's. -/
def Obligations.FailedCommandChangesNothing : Prop :=
  ∀ (s t : State) (c : Command) (rest : List Input) (r : Response), s.inputs = .command c :: rest →
    step s = .next t → t.responses = s.responses ++ [r] → r.status ≠ 0#4 →
    t = ({ s with inputs := rest } : State).deliver r ∧ r.oimg = none ∧
    (decode s.cfg.hasPacker c ≠ .ok .verify → r.data = 0#64)

/-- R61, R31: the answer to a command and the state after it do not depend on the commands after it, nor on any
response delivered before ("no later command reads them"). The statement also covers an oldest input that is a reset:
that what stands behind a reset stays pending is the model's reading, log entry 8 (DEDUCED), not R61's. -/
def Obligations.LaterInputsAndResponsesAreNotRead : Prop :=
  ∀ (s t : State) (later : List Input) (earlier : List Response), s.inputs ≠ [] → step s = .next t →
    step { s with inputs := s.inputs ++ later, responses := earlier ++ s.responses } =
      .next { t with inputs := t.inputs ++ later, responses := earlier ++ t.responses }

/-- R21, R44, R290: while VALID = 0 no run of any length can observe the representation fields, the unspecified NIB
among them, and what the first INIT or LOAD_IMAGE brings up does not depend on them. -/
def Obligations.InvalidRepresentationIsUnobservable : Prop :=
  ∀ (k : Nat) (s : State) (D : Dense), s.valid = false →
    ∃ t t' : State, Host.Core.run Sys2Proof.core k s = .next t ∧
      Host.Core.run Sys2Proof.core k ({ s with rep := D } : State) = .next t' ∧
      t'.responses = t.responses ∧ t'.valid = t.valid ∧ t'.inputs = t.inputs ∧ (t.valid = true → t'.rep = t.rep)

/-- R261: while VALID = 0 the nine commands answer NOT_INITIALIZED (READ_CSR but for 0 and 8); NOP, INIT, LOAD_IMAGE and
READ_CSR of 0 and 8 never do. STORE_IMAGE needs the packer to get that far (R263: an illegal command fails first). -/
def Obligations.CommandsThatNeedValid : Prop :=
  ∀ s : State,
    (s.valid = false → ∀ i : Instr,
      ((∃ b v, i = .insert b v) ∨ (∃ h, i = .insertHash h) ∨ (∃ h, i = .decodeHash h) ∨ i = .cardinality ∨
       (∃ img, i = .mergeImage img) ∨ (i = .storeImage ∧ s.cfg.hasPacker = true) ∨ i = .verify ∨ (∃ b, i = .readBucket b) ∨
       (∃ c, i = .readCsr c ∧ c ≠ 0x00#8 ∧ c ≠ 0x08#8)) →
      exec i s = .next (s.deliver ⟨2#4, 0#64, none⟩)) ∧
    (∀ (i : Instr), (i = .nop ∨ (∃ p, i = .init p) ∨ (∃ img, i = .loadImage img) ∨ i = .readCsr 0x00#8 ∨
        i = .readCsr 0x08#8) →
      ∃ (t : State) (r : Response), exec i s = .next t ∧ t.responses = s.responses ++ [r] ∧ r.status ≠ 2#4)

/-- R21: VALID becomes 1 only through a successful INIT or LOAD_IMAGE, and only reset clears it. -/
def Obligations.OnlyInitLoadAndResetWriteValid : Prop :=
  ∀ (s t : State), step s = .next t → t.valid ≠ s.valid →
    (t.valid = true ∧ ∃ c rest, s.inputs = .command c :: rest ∧
      ((∃ p, decode s.cfg.hasPacker c = .ok (.init p)) ∨ (∃ img, decode s.cfg.hasPacker c = .ok (.loadImage img)))) ∨
    (t.valid = false ∧ ∃ c rest, s.inputs = .reset c :: rest)

/-- R58: the seven reading commands write no state at all, and repeating one gives the same response. -/
def Obligations.ReadingCommandsWriteNothing : Prop :=
  ∀ (s : State) (i : Instr),
    ((∃ b, i = .readBucket b) ∨ (∃ c, i = .readCsr c) ∨ (∃ h, i = .decodeHash h) ∨ i = .cardinality ∨ i = .verify ∨
      i = .storeImage ∨ i = .nop) →
    ∃ r : Response, exec i s = .next (s.deliver r) ∧ exec i (s.deliver r) = .next ((s.deliver r).deliver r)

/-- The frame of every command: the configuration, the pending inputs and the free counter are unchanged and one
response is added; every command but INIT and LOAD_IMAGE also leaves VALID (R21) and P (R22). -/
def Obligations.CommandFrames : Prop :=
  ∀ (s t : State) (i : Instr), exec i s = .next t →
    (t.cfg = s.cfg ∧ t.inputs = s.inputs ∧ t.freeIndex = s.freeIndex ∧ ∃ r, t.responses = s.responses ++ [r]) ∧
    ((∀ p, i ≠ .init p) → (∀ img, i ≠ .loadImage img) → t.valid = s.valid ∧ t.rep.p = s.rep.p)

/-! ## Reset (spec/10_state.md R44, spec/70_reset_and_hazards.md R290) -/

/-- R44: the fields with a stated reset value, in `State.reset`. -/
def Obligations.ResetValuesOfR44 : Prop :=
  State.reset.valid = false ∧ State.reset.rep.p = 0#5 ∧ State.reset.rep.baseline = 0#8 ∧
  State.reset.rep.baselineCount = 0#17 ∧ State.reset.rep.ovf.valid = false ∧ State.reset.rep.ovf.bucket = 0#16 ∧
  State.reset.rep.ovf.value = 0#8

/-- R290: the reset event puts every field with a stated reset value at it, from any state; a command in progress has no
effect and no response; no parameter changes. (That a reset is an input that carries the command in progress, and that
the inputs behind it stay pending, is the model's reading, log entry 8, DEDUCED: R290 says nothing of inputs not yet
issued.) -/
def Obligations.ResetEventResetsTheBlock : Prop :=
  ∀ (s : State) (inProgress : Option Command) (rest : List Input), s.inputs = .reset inProgress :: rest →
    ∃ t : State, step s = .next t ∧ t.valid = false ∧ t.rep.p = 0#5 ∧ t.rep.baseline = 0#8 ∧
      t.rep.baselineCount = 0#17 ∧ t.rep.ovf = ⟨false, 0#16, 0#8⟩ ∧ t.cfg = s.cfg ∧ t.responses = s.responses ∧
      t.inputs = rest

/-! ## Invariants (spec/10_state.md R28) -/

/-- The invariant holds at reset. -/
def Obligations.InvariantHoldsAtReset : Prop := State.reset.Inv

/-- R28: every step keeps the invariant, from every state that has it. -/
def Obligations.EveryStepKeepsInvariant : Prop := ∀ s t : State, s.Inv → step s = .next t → t.Inv

/-! ## The hash front end (spec/40_hash_lzc.md) -/

/-- R100 to R102: the bucket is the top `bits` bits; the run counts the zero bits below them, and reaches 64 - bits
exactly when they are all zero; the value is the run plus 1. -/
def Obligations.HashFrontEndCountsLeadingZeros : Prop :=
  ∀ (h : Hash) (bits : Nat), 1 ≤ bits → bits ≤ 26 →
    bucketIndex h bits = h.toNat / 2 ^ (64 - bits) ∧ bucketIndex h bits < 2 ^ bits ∧
    leadingZeroRun h bits ≤ 64 - bits ∧
    (∀ i, i < leadingZeroRun h bits → h.getLsbD (63 - bits - i) = false) ∧
    (leadingZeroRun h bits < 64 - bits → h.getLsbD (63 - bits - leadingZeroRun h bits) = true) ∧
    registerValue h bits = leadingZeroRun h bits + 1

/-- R104: DECODE_HASH answers the bucket in DATA[15:0] and the value in DATA[23:16], at the current P. -/
def Obligations.DecodeHashAnswersBucketAndValue : Prop :=
  ∀ (s : State) (h : Hash),
    (s.valid = false → exec (.decodeHash h) s = .next (s.deliver ⟨2#4, 0#64, none⟩)) ∧
    (s.valid = true → 1 ≤ s.rep.p.toNat → s.rep.p.toNat ≤ 16 →
      ∃ d : Data, exec (.decodeHash h) s = .next (s.deliver ⟨0#4, d, none⟩) ∧
        (d.extractLsb' 0 16).toNat = bucketIndex h s.rep.p.toNat ∧
        (d.extractLsb' 16 8).toNat = registerValue h s.rep.p.toNat ∧ d.extractLsb' 24 40 = 0#40)

/-! ## INIT, INSERT, INSERT_HASH (spec/42_register_update.md) -/

/-- R140: INIT of a legal precision gives the fresh representation; any other p is INVALID_ARGUMENT with nothing
changed, whatever VALID is. -/
def Obligations.InitMakesFreshRepresentation : Prop :=
  ∀ (s : State) (p : BitVec 8),
    (1 ≤ p.toNat → p.toNat ≤ 16 → ∃ t : State, exec (.init p) s = .next t ∧ t.valid = true ∧
      t.rep.p.toNat = p.toNat ∧ t.rep.baseline = 0#8 ∧ t.rep.baselineCount.toNat = 2 ^ p.toNat ∧
      t.rep.nib = List.replicate (2 ^ p.toNat) 0#4 ∧ t.rep.ovf = ⟨false, 0#16, 0#8⟩ ∧
      t.responses = s.responses ++ [⟨0#4, 0#64, none⟩] ∧ t.cfg = s.cfg ∧ t.inputs = s.inputs ∧
      t.freeIndex = s.freeIndex) ∧
    (p.toNat < 1 ∨ 16 < p.toNat → exec (.init p) s = .next (s.deliver ⟨3#4, 0#64, none⟩))

/-- R142: what `insert_core` writes, field by field, and when it raises the baseline. -/
def Obligations.InsertCoreWritesFields : Prop :=
  ∀ (D : Dense) (b v : Nat), b < D.nib.length →
    (v ≤ D.baseline.toNat + (D.nibAt b).toNat → insertCore D b v = D) ∧
    (D.baseline.toNat + (D.nibAt b).toNat < v →
      ∃ E : Dense, E.p = D.p ∧ E.baseline = D.baseline ∧
        E.nib = D.nib.set b (BitVec.ofNat 4 (min (v - D.baseline.toNat) 15)) ∧
        (15 + D.ovf.value.toNat < v - D.baseline.toNat → E.ovf = ⟨true, BitVec.ofNat 16 b,
          BitVec.ofNat 8 (v - D.baseline.toNat - 15)⟩) ∧
        (v - D.baseline.toNat ≤ 15 + D.ovf.value.toNat → E.ovf = D.ovf) ∧
        (D.nibAt b ≠ 0#4 → E.baselineCount = D.baselineCount ∧ insertCore D b v = E) ∧
        (D.nibAt b = 0#4 → E.baselineCount = D.baselineCount - 1#17 ∧
          insertCore D b v = if E.baselineCount = 0#17 then raiseBaseline E else E))

/-- R143, R145: INSERT. DATA[15:0] is the bucket, [23:16] the value, [24] whether any field changed. -/
def Obligations.InsertUpdatesAndAnswers : Prop :=
  ∀ (s : State) (bucket : BitVec 16) (value : BitVec 8),
    (s.valid = false → exec (.insert bucket value) s = .next (s.deliver ⟨2#4, 0#64, none⟩)) ∧
    (s.valid = true → 2 ^ s.rep.p.toNat ≤ bucket.toNat →
      exec (.insert bucket value) s = .next (s.deliver ⟨3#4, 0#64, none⟩)) ∧
    (s.valid = true → bucket.toNat < 2 ^ s.rep.p.toNat →
      ∃ d : Data, exec (.insert bucket value) s =
          .next ((s.update (insertCore s.rep bucket.toNat value.toNat)).deliver ⟨0#4, d, none⟩) ∧
        d.extractLsb' 0 16 = bucket ∧ d.extractLsb' 16 8 = value ∧ d.extractLsb' 25 39 = 0#39 ∧
        (d.getLsbD 24 = true ↔ insertCore s.rep bucket.toNat value.toNat ≠ s.rep))

/-- R144: INSERT_HASH is INSERT of the LZC pipe's bucket and value, and cannot fail once VALID = 1. -/
def Obligations.InsertHashIsInsertOfDecodedHash : Prop :=
  ∀ (s : State) (h : Hash),
    (s.valid = false → exec (.insertHash h) s = .next (s.deliver ⟨2#4, 0#64, none⟩)) ∧
    (s.valid = true → 1 ≤ s.rep.p.toNat → s.rep.p.toNat ≤ 16 →
      exec (.insertHash h) s = exec (.insert (BitVec.ofNat 16 (bucketIndex h s.rep.p.toNat))
        (BitVec.ofNat 8 (registerValue h s.rep.p.toNat))) s ∧
      ∃ d : Data, exec (.insertHash h) s =
        .next ((s.update (insertCore s.rep (bucketIndex h s.rep.p.toNat) (registerValue h s.rep.p.toNat))).deliver
          ⟨0#4, d, none⟩))

/-- R149: what the max-update keeps and what it loses, for every value an INSERT can have. -/
def Obligations.MaxUpdateValues : Prop :=
  ∀ (D : Dense) (b v : Nat), D.Inv → b < D.m → v ≤ 255 →
    (insertCore D b v).value b =
      (if D.baseline.toNat + 15 < v ∧ v - D.baseline.toNat - 15 ≤ D.ovf.value.toNat then
        max (D.value b) (D.baseline.toNat + 15)
      else max (D.value b) v) ∧
    (∀ b', b' < D.m → b' ≠ b →
      (insertCore D b v).value b' =
        if D.baseline.toNat + D.ovf.value.toNat + 15 < v ∧ D.ovf.valid = true ∧ D.ovf.bucket.toNat = b' then
          D.baseline.toNat + 15
        else D.value b')

/-- The frame of an update that does not raise the baseline: one nibble, the slot and the count at most. -/
def Obligations.UpdateWithoutRaiseTouchesOneBucket : Prop :=
  ∀ (D : Dense) (b v : Nat), D.Inv → b < D.m → (D.nibAt b ≠ 0#4 ∨ D.baselineCount ≠ 1#17) →
    (insertCore D b v).baseline = D.baseline ∧ (insertCore D b v).p = D.p ∧
    (∀ b', b' ≠ b → (insertCore D b v).nibAt b' = D.nibAt b') ∧
    (D.nibAt b ≠ 0#4 → (insertCore D b v).baselineCount = D.baselineCount) ∧
    (v ≤ D.baseline.toNat + 15 → (insertCore D b v).ovf = D.ovf)

/-- R146, R147: the raise is the while loop of passes, stopped at BASELINE = 255. -/
def Obligations.RaiseIsLoopOfPasses : Prop :=
  ∀ D : Dense, raiseBaseline D =
    if D.baselineCount = 0#17 ∧ D.baseline ≠ 255#8 then raiseBaseline (raisePass D) else D

/-- R146: a pass that visits every bucket once, in any order, one visit at a time with the rule's three branches, gives
the model's pass. -/
def Obligations.RaiseVisitOrderIsImmaterial : Prop :=
  ∀ (D : Dense) (order : List Nat), D.Inv → D.baselineCount = 0#17 → D.baseline ≠ 255#8 →
    order.Perm (List.range D.m) →
    order.foldl raiseVisit { D with baseline := D.baseline + 1#8 } = raisePass D

/-- R148: a raise preserves every bucket's value and I1 to I3; in each pass BASELINE rises by 1 and each bucket loses
exactly 1 from its nibble or its excess. -/
def Obligations.RaisePreservesValues : Prop :=
  ∀ D : Dense, D.Inv →
    (raiseBaseline D).Inv ∧ (∀ b, b < D.m → (raiseBaseline D).value b = D.value b) ∧
    (D.baselineCount = 0#17 → D.baseline ≠ 255#8 →
      (raisePass D).baseline.toNat = D.baseline.toNat + 1 ∧
      ∀ b, b < D.m → ((raisePass D).nibAt b).toNat + (raisePass D).ovf.excessOf b + 1 =
        (D.nibAt b).toNat + D.ovf.excessOf b)

/-- R147: a raise ends with a bucket at delta 0, or saturated at BASELINE = 255 with every value above 255. -/
def Obligations.RaiseEndsOrSaturates : Prop :=
  ∀ D : Dense, D.Inv → (raiseBaseline D).baselineCount = 0#17 →
    (raiseBaseline D).baseline = 255#8 ∧ ∀ b, b < D.m → 255 < D.value b

/-- R142, R145: exactly when an insert changes nothing. Hence R58's and R144's idempotence wherever R142 gives it: a
repeated insert is a no-op if the first did not raise the baseline, or if the bucket then has the value inserted. Hence
also INSERT_HASH changes nothing, so that CARDINALITY answers as before (R170), exactly when the hash's bucket has its
value or the hash's excess loses to the slot; a bucket that was clamped, or displaced from the slot (R149, C5), may no
longer have the value of a hash inserted before (10_state.md R30, log entry 11). -/
def Obligations.RepeatedInsertWithoutRaiseIsNoOp : Prop :=
  (∀ (D : Dense) (b v : Nat), D.Inv → b < D.m → v ≤ 255 →
    (insertCore D b v = D ↔
      v ≤ D.value b ∨ (D.nibAt b = 15#4 ∧ v ≤ D.baseline.toNat + 15 + D.ovf.value.toNat)) ∧
    ((insertCore D b v).baseline = D.baseline ∨ v ≤ (insertCore D b v).value b →
      insertCore (insertCore D b v) b v = insertCore D b v)) ∧
  (∀ (s : State) (h : Hash), s.valid = true → s.rep.Inv →
    ((∃ d : Data, exec (.insertHash h) s = .next (s.deliver ⟨0#4, d, none⟩)) ↔
      registerValue h s.rep.p.toNat ≤ s.rep.value (bucketIndex h s.rep.p.toNat) ∨
      (s.rep.nibAt (bucketIndex h s.rep.p.toNat) = 15#4 ∧
        registerValue h s.rep.p.toNat ≤ s.rep.baseline.toNat + 15 + s.rep.ovf.value.toNat)) ∧
    (∀ d : Data, exec (.insertHash h) s = .next (s.deliver ⟨0#4, d, none⟩) →
      d.getLsbD 24 = false ∧ ∃ r : Response, exec .cardinality s = .next (s.deliver r) ∧
        exec .cardinality (s.deliver ⟨0#4, d, none⟩) = .next ((s.deliver ⟨0#4, d, none⟩).deliver r)))

/-- R29, as the procedures give it: INIT, a sparse conversion and a merge leave a bucket at delta 0 unless saturated,
and so does an insert into a representation that has one. -/
def Obligations.SomeBucketAtDeltaZero : Prop :=
  (∀ p, 1 ≤ p → p ≤ 16 → 1 ≤ (fresh p).baselineCount.toNat) ∧
  (∀ (D : Dense) (b v : Nat), D.Inv → b < D.m → v ≤ 255 → 1 ≤ D.baselineCount.toNat →
    1 ≤ (insertCore D b v).baselineCount.toNat ∨ (insertCore D b v).baseline = 255#8) ∧
  (∀ (p : Nat) (es : List SparseEntry), 1 ≤ p → p ≤ 16 → 1 ≤ (toDense p es).baselineCount.toNat) ∧
  (∀ S O : Dense, S.Inv → O.Inv → O.p = S.p →
    1 ≤ (mergeCore S O).baselineCount.toNat ∨ (mergeCore S O).baseline = 255#8)

/-! ## The converter (spec/41_sparse_converter.md) -/

/-- R123: the bucket is below 2^p and the value in [1, 89]; for a remainder r ≠ 0 the value locates r's leading bit in
its field, and for r = 0 it runs on into V. -/
def Obligations.EntryConversion : Prop :=
  ∀ (p : Nat) (e : SparseEntry), 1 ≤ p → p ≤ 16 →
    (convertEntry p e).1 = entryIdx e / 2 ^ (26 - p) ∧ (convertEntry p e).1 < 2 ^ p ∧
    1 ≤ (convertEntry p e).2 ∧ (convertEntry p e).2 ≤ 89 ∧
    (entryIdx e % 2 ^ (26 - p) = 0 → (convertEntry p e).2 = 26 - p + entryV e + 1) ∧
    (entryIdx e % 2 ^ (26 - p) ≠ 0 → (convertEntry p e).2 ≤ 26 - p ∧
      2 ^ (26 - p - (convertEntry p e).2) ≤ entryIdx e % 2 ^ (26 - p) ∧
      entryIdx e % 2 ^ (26 - p) < 2 ^ (26 - p - (convertEntry p e).2 + 1))

/-- R125: converting a hash's sparse entry gives what the hash front end gives; so folding a sparse set and inserting
the same hashes in the same order give the same representation. -/
def Obligations.SparseEntryEquivalence : Prop :=
  ∀ p : Nat, 1 ≤ p → p ≤ 16 →
    (∀ h : Hash, convertEntry p (sparseEntry h) = (bucketIndex h p, registerValue h p)) ∧
    (∀ hs : List Hash, toDense p (hs.map sparseEntry) =
      hs.foldl (fun D h => insertCore D (bucketIndex h p) (registerValue h p)) (fresh p))

/-- R121, R122: the parser accepts exactly the Sparse v2 images with ascending indices and p in [1, 16], gives back
their entries, answers UNSUPPORTED_PRECISION exactly for those with p in [17, 26], and FORMAT_CORRUPT for the rest. -/
def Obligations.SparseParserAcceptsExactlySparseImages : Prop :=
  (∀ (tag : Byte) (p : Nat) (es : List SparseEntry), 1 ≤ p → p ≤ 26 → es.length < 65536 → ascending es = true →
    parseSparse (sparseImage tag (BitVec.ofNat 8 p) es) =
      if p ≤ 16 then .ok (p, es) else .error .unsupportedPrecision) ∧
  (∀ (img : Image) (p : Nat) (es : List SparseEntry), parseSparse img = .ok (p, es) →
    1 ≤ p ∧ p ≤ 16 ∧ ascending es = true ∧ img = sparseImage (imgByte img 0) (BitVec.ofNat 8 p) es) ∧
  (∀ (img : Image) (st : Status), parseSparse img = .error st → st = .formatCorrupt ∨
    (st = .unsupportedPrecision ∧ ∃ (p : Nat) (es : List SparseEntry), 17 ≤ p ∧ p ≤ 26 ∧ ascending es = true ∧
      img = sparseImage (imgByte img 0) (BitVec.ofNat 8 p) es))

/-! ## Images (spec/45_image_packer.md) -/

/-- R210 to R214: STORE_IMAGE answers the dense image, byte by byte, and its length; a slot on bucket 65535 is
UNREPRESENTABLE. R218: without the packer STORE_IMAGE is an illegal command, whatever the state. -/
def Obligations.StoreImageLayout : Prop :=
  (∀ s : State, s.cfg.hasPacker = false → exec .storeImage s = .next (s.deliver ⟨1#4, 0#64, none⟩)) ∧
  ∀ s : State, s.cfg.hasPacker = true → s.valid = true → s.rep.Inv →
    ((s.rep.ovf.valid = true ∧ s.rep.ovf.bucket = 0xFFFF#16) →
      exec .storeImage s = .next (s.deliver ⟨9#4, 0#64, none⟩)) ∧
    (¬ (s.rep.ovf.valid = true ∧ s.rep.ovf.bucket = 0xFFFF#16) →
      ∃ img : Image, exec .storeImage s = .next (s.deliver ⟨0#4, BitVec.ofNat 64 img.length, some img⟩) ∧
        img.length = s.rep.m / 2 + 6 ∧ imgByte img 0 = s.cfg.tagDenseV1 ∧
        (imgByte img 1).toNat = s.rep.p.toNat ∧ imgByte img 2 = s.rep.baseline ∧
        (∀ j, j < s.rep.m / 2 → (imgByte img (3 + j)).toNat =
          (s.rep.nibAt (2 * j)).toNat * 16 + (s.rep.nibAt (2 * j + 1)).toNat) ∧
        be16 img (3 + s.rep.m / 2) = (if s.rep.ovf.valid = true then s.rep.ovf.bucket else 0xFFFF#16) ∧
        imgByte img (5 + s.rep.m / 2) = s.rep.ovf.value)

/-- R219: parsing what was serialized gives the same representation, in every field. -/
def Obligations.SerializeThenParse : Prop :=
  ∀ (cfg : HwConfig) (D : Dense), D.Inv → unrepresentable D = false → parseDense (serialize cfg D) = .ok D

/-- R219, R216: serializing what a dense image parsed to gives the image back, byte for byte; a dense image that does
not parse is FORMAT_CORRUPT. -/
def Obligations.ParseThenSerialize : Prop :=
  ∀ (cfg : HwConfig) (img : Image),
    (∀ D : Dense, imgByte img 0 = cfg.tagDenseV1 → parseDense img = .ok D → serialize cfg D = img) ∧
    (∀ st : Status, parseDense img = .error st → st = .formatCorrupt)

/-- R215, R218: the tag decides the route, before any other check; without the packer the dense tag is unknown. -/
def Obligations.TagDecidesTheRoute : Prop :=
  ∀ cfg : HwConfig, cfg.wf = true →
    parseImage cfg [] = .error .formatCorrupt ∧
    ∀ (tag : Byte) (rest : List Byte),
      (tag = cfg.tagSparseV1 → parseImage cfg (tag :: rest) = .error .formatRetired) ∧
      (tag = cfg.tagSparseV2 → parseImage cfg (tag :: rest) =
        (parseSparse (tag :: rest)).map fun pe => toDense pe.1 pe.2) ∧
      (tag = cfg.tagDenseV1 → cfg.hasPacker = true → parseImage cfg (tag :: rest) = parseDense (tag :: rest)) ∧
      (tag = cfg.tagDenseV1 → cfg.hasPacker = false → parseImage cfg (tag :: rest) = .error .formatUnknown) ∧
      (tag ≠ cfg.tagSparseV1 → tag ≠ cfg.tagSparseV2 → tag ≠ cfg.tagDenseV1 →
        parseImage cfg (tag :: rest) = .error .formatUnknown)

/-- R222: LOAD_IMAGE of a dense image and of a sparse image, whatever VALID is: the block holds what the image holds,
and DATA is the tag and the precision. -/
def Obligations.LoadImageCompletes : Prop :=
  ∀ s : State, s.cfg.wf = true →
    (∀ D : Dense, s.cfg.hasPacker = true → D.Inv → unrepresentable D = false →
      exec (.loadImage (serialize s.cfg D)) s =
        .next ((s.hold D).deliver ⟨0#4, 0#48 ++ D.p.setWidth 8 ++ s.cfg.tagDenseV1, none⟩)) ∧
    (∀ (p : Nat) (es : List SparseEntry), 1 ≤ p → p ≤ 16 → es.length < 65536 → ascending es = true →
      exec (.loadImage (sparseImage s.cfg.tagSparseV2 (BitVec.ofNat 8 p) es)) s =
        .next ((s.hold (toDense p es)).deliver ⟨0#4, 0#48 ++ BitVec.ofNat 8 p ++ s.cfg.tagSparseV2, none⟩))

/-- R260, R262, R263: an image that does not parse fails LOAD_IMAGE, and MERGE_IMAGE once VALID = 1, with the number R260
gives the parser's status (FORMAT_RETIRED 4, FORMAT_UNKNOWN 5, FORMAT_CORRUPT 6, UNSUPPORTED_PRECISION 8) and nothing
changed. R215, R218, R122: images that fail with each of the four. -/
def Obligations.ImageFailuresAreReported : Prop :=
  (∀ (s : State) (img : Image) (st : Status), parseImage s.cfg img = .error st →
    ∃ code : BitVec 4,
      ((st = .formatRetired ∧ code = 4#4) ∨ (st = .formatUnknown ∧ code = 5#4) ∨ (st = .formatCorrupt ∧ code = 6#4) ∨
        (st = .unsupportedPrecision ∧ code = 8#4)) ∧
      exec (.loadImage img) s = .next (s.deliver ⟨code, 0#64, none⟩) ∧
      (s.valid = true → exec (.mergeImage img) s = .next (s.deliver ⟨code, 0#64, none⟩))) ∧
  (∀ s : State, s.cfg.wf = true →
    exec (.loadImage []) s = .next (s.deliver ⟨6#4, 0#64, none⟩) ∧
    (∀ rest : List Byte, exec (.loadImage (s.cfg.tagSparseV1 :: rest)) s = .next (s.deliver ⟨4#4, 0#64, none⟩)) ∧
    (∀ (tag : Byte) (rest : List Byte), tag ≠ s.cfg.tagSparseV1 → tag ≠ s.cfg.tagSparseV2 →
      (tag ≠ s.cfg.tagDenseV1 ∨ s.cfg.hasPacker = false) →
      exec (.loadImage (tag :: rest)) s = .next (s.deliver ⟨5#4, 0#64, none⟩)) ∧
    (∀ (p : Nat) (es : List SparseEntry), 17 ≤ p → p ≤ 26 → es.length < 65536 → ascending es = true →
      exec (.loadImage (sparseImage s.cfg.tagSparseV2 (BitVec.ofNat 8 p) es)) s =
        .next (s.deliver ⟨8#4, 0#64, none⟩)))

/-! ## Merge (spec/44_merge.md) -/

/-- R190: MERGE_IMAGE of a dense image and of a sparse image of the block's precision; another precision is
PRECISION_MISMATCH with nothing changed. -/
def Obligations.MergeImageCompletes : Prop :=
  ∀ s : State, s.cfg.wf = true → s.valid = true →
    (∀ O : Dense, s.cfg.hasPacker = true → O.Inv → unrepresentable O = false →
      (O.p = s.rep.p → exec (.mergeImage (serialize s.cfg O)) s =
        .next ((s.update (mergeCore s.rep O)).deliver ⟨0#4, s.cfg.tagDenseV1.setWidth 64, none⟩)) ∧
      (O.p ≠ s.rep.p → exec (.mergeImage (serialize s.cfg O)) s = .next (s.deliver ⟨7#4, 0#64, none⟩))) ∧
    (∀ (p : Nat) (es : List SparseEntry), 1 ≤ p → p ≤ 16 → es.length < 65536 → ascending es = true →
      (p = s.rep.p.toNat → exec (.mergeImage (sparseImage s.cfg.tagSparseV2 (BitVec.ofNat 8 p) es)) s =
        .next ((s.update (mergeCore s.rep (toDense p es))).deliver ⟨0#4, s.cfg.tagSparseV2.setWidth 64, none⟩)) ∧
      (p ≠ s.rep.p.toNat → exec (.mergeImage (sparseImage s.cfg.tagSparseV2 (BitVec.ofNat 8 p) es)) s =
        .next (s.deliver ⟨7#4, 0#64, none⟩)))

/-- R191, R192, R193 (c): the values of a merge. Up to `base + 15` a bucket has the larger value of the two sides; of
the buckets above, the largest keeps its value (the lowest bucket among equals), and every other is clamped. -/
def Obligations.MergeValues : Prop :=
  ∀ S O : Dense, S.Inv → O.Inv → O.p = S.p →
    (mergeCore S O).Inv ∧ (mergeCore S O).p = S.p ∧
    ∀ b, b < S.m →
      (max (S.value b) (O.value b) ≤ max S.baseline.toNat O.baseline.toNat + 15 →
        (mergeCore S O).value b = max (S.value b) (O.value b)) ∧
      (max S.baseline.toNat O.baseline.toNat + 15 < max (S.value b) (O.value b) →
        ((∀ b', b' < b → max (S.value b') (O.value b') < max (S.value b) (O.value b)) ∧
          (∀ b', b < b' → b' < S.m → max (S.value b') (O.value b') ≤ max (S.value b) (O.value b)) →
          (mergeCore S O).value b = max (S.value b) (O.value b)) ∧
        ((∃ b', b' < b ∧ max (S.value b) (O.value b) ≤ max (S.value b') (O.value b')) ∨
          (∃ b', b < b' ∧ b' < S.m ∧ max (S.value b) (O.value b) < max (S.value b') (O.value b')) →
          (mergeCore S O).value b = max S.baseline.toNat O.baseline.toNat + 15))

/-- R193 (a): merging is commutative in every field. -/
def Obligations.MergeIsCommutative : Prop :=
  ∀ S O : Dense, O.p = S.p → mergeCore S O = mergeCore O S

/-- R193 (b): merging a representation with itself leaves every value. -/
def Obligations.MergeWithItselfKeepsValues : Prop :=
  ∀ S : Dense, S.Inv → ∀ b, b < S.m → (mergeCore S S).value b = S.value b

/-! ## Cardinality (spec/43_cardinality.md, spec/00_scope.md R9) -/

/-- R9: `fl` gives the nearest binary64 value, and of two equally near the one whose last significand bit is 0; each of
`a +. b`, `a -. b`, `a *. b`, `a /. b` of finite values (x units are x / 2^1074) is that rounding of the exact result,
however the exact result is written as a fraction, and so is `fl num den` of num / den. (A magnitude beyond the finite
range is an infinity: presumed from IEEE 754, log entry 6.) -/
def Obligations.RoundingIsToNearestEven : Prop :=
  (∀ (num : Int) (den : Nat), 0 < den → ∀ a b : Int,
    ((num : ℚ) / den = a + b → add64 (.fin a) (.fin b) = flUnits num den) ∧
    ((num : ℚ) / den = a - b → sub64 (.fin a) (.fin b) = flUnits num den) ∧
    ((num : ℚ) / den = a * b / 2 ^ 1074 → mul64 (.fin a) (.fin b) = flUnits num den) ∧
    (b ≠ 0 → (num : ℚ) / den = a / b * 2 ^ 1074 → div64 (.fin a) (.fin b) = flUnits num den) ∧
    (0 < b → (num : ℚ) / den = a / b * 2 ^ 1074 → fl a b.toNat = flUnits num den)) ∧
  ∀ (num : Int) (den : Nat), 0 < den →
    (num.natAbs < den * (2 ^ 2098 - 2 ^ 2044) → ∃ n, flUnits num den = .fin n) ∧
    (∀ n : Int, flUnits num den = .fin n → representable n = true ∧
      ∀ k : Int, representable k = true → k ≠ n →
        (num - n * (den : Int)).natAbs ≤ (num - k * (den : Int)).natAbs ∧
        ((num - n * (den : Int)).natAbs = (num - k * (den : Int)).natAbs →
          n.natAbs / 2 ^ (bitlen n.natAbs - 53) % 2 = 0))

/-- R170 to R175: CARDINALITY's estimate in each regime, rounded into DATA. The sum is over the buckets, exact, and
rounded once. -/
def Obligations.CardinalityAnswersEstimate : Prop :=
  ∀ s : State, s.valid = true → s.rep.nib.length = s.rep.m →
    (s.rep.baseline = 0#8 ∧ 2 * s.rep.m < 5 * s.rep.baselineCount.toNat →
      exec .cardinality s = .next (s.deliver ⟨0#4, roundTo64 (mul64 (natTo64 s.rep.m) (lnOfConfig s.cfg
        (div64 (natTo64 s.rep.m) (natTo64 s.rep.baselineCount.toNat)))), none⟩)) ∧
    (¬ (s.rep.baseline = 0#8 ∧ 2 * s.rep.m < 5 * s.rep.baselineCount.toNat) →
      exec .cardinality s = .next (s.deliver ⟨0#4, roundTo64 (biasCorrect (s.cfg.biasTable s.rep.p.toNat)
        (div64 (mul64 (alpha s.rep.p.toNat) (natTo64 (s.rep.m * s.rep.m)))
          (fl ((((List.range s.rep.m).map fun b => 2 ^ (525 - s.rep.value b)).sum : Nat) : Int) (2 ^ 525)))),
        none⟩))

/-- R171: the regime test is an exact integer comparison, it agrees with comparing the binary64 quotient against
`fl(0.4)`, and in the small regime some bucket is at delta 0. -/
def Obligations.RegimeTestIsExact : Prop :=
  ∀ D : Dense,
    (smallRegime D = true ↔ D.baseline = 0#8 ∧ 5 * D.baselineCount.toNat > 2 * D.m) ∧
    (smallRegime D = true → 0 < D.baselineCount.toNat) ∧
    (D.p.toNat ≤ 16 → D.baselineCount.toNat ≤ D.m →
      (smallRegime D = true ↔ D.baseline = 0#8 ∧
        lt64 (fl 4 10) (div64 (natTo64 D.baselineCount.toNat) (natTo64 D.m)) = true))

/-- R175: the raw estimate is positive and finite. -/
def Obligations.RawEstimateIsPositiveFinite : Prop := ∀ D : Dense, D.Inv → ∃ n : Int, 0 < n ∧ rawEstimate D = .fin n

/-- R174: the constants, with the values the rule gives for p = 1, 7, 14 and 16. -/
def Obligations.AlphaConstants : Prop :=
  alpha 4 = fl 673 1000 ∧ alpha 5 = fl 697 1000 ∧ alpha 6 = fl 709 1000 ∧
  (∀ p, p ≠ 4 → p ≠ 5 → p ≠ 6 →
    alpha p = div64 (fl 7213 10000) (add64 (fl 1 1) (div64 (fl 1079 1000) (natTo64 (2 ^ p))))) ∧
  alpha 1 = fl 46852874309840864 100000000000000000 ∧ alpha 7 = fl 7152704932638152 10000000000000000 ∧
  alpha 14 = fl 7212525005219688 10000000000000000 ∧ alpha 16 = fl 7212881245439701 10000000000000000

/-- R176: bias correction by a well-formed table: unmodified outside the range, the point's bias on an exact hit, else
interpolated between the neighbouring points. -/
def Obligations.BiasCorrectionByTable : Prop :=
  ∀ (t : BiasTable) (e : Int), biasTableWf t = true →
    (t = [] → biasCorrect t (.fin e) = .fin e) ∧
    (∀ q, t.head? = some q → lt64 (.fin e) q.raw = true → biasCorrect t (.fin e) = .fin e) ∧
    (∀ q, t.getLast? = some q → lt64 q.raw (.fin e) = true → biasCorrect t (.fin e) = .fin e) ∧
    (∀ q ∈ t, q.raw = .fin e → biasCorrect t (.fin e) = sub64 (.fin e) q.bias) ∧
    (∀ (i : Nat) (lo hi : BiasPoint), t[i]? = some lo → t[i + 1]? = some hi → lt64 lo.raw (.fin e) = true →
      lt64 (.fin e) hi.raw = true →
      biasCorrect t (.fin e) = sub64 (.fin e) (add64 (div64 (mul64 (sub64 (.fin e) lo.raw) (sub64 hi.bias lo.bias))
        (sub64 hi.raw lo.raw)) lo.bias))

/-- R177: rounding is floor(x + 1/2), clamped to the signed 64-bit range, in two's complement. -/
def Obligations.RoundingHalfUpClamped : Prop :=
  ∀ n : Int, (roundTo64 (.fin n)).toInt =
    max (-2 ^ 63) (min (2 ^ 63 - 1) ⌊(n : ℚ) / 2 ^ 1074 + 1 / 2⌋)

/-- R170, R172, R6: right after INIT, CARDINALITY answers 0 at every precision and with every logarithm. -/
def Obligations.CardinalityAfterInitIsZero : Prop :=
  ∀ (s : State) (p : BitVec 8), 1 ≤ p.toNat → p.toNat ≤ 16 →
    ∃ t : State, exec (.init p) s = .next t ∧ exec .cardinality t = .next (t.deliver ⟨0#4, 0#64, none⟩)

/-! ## Control and reads (spec/46_control.md) -/

/-- R240: NOP answers OK with data 0 and does nothing. -/
def Obligations.NopAnswersOk : Prop := ∀ s : State, exec .nop s = .next (s.deliver ⟨0#4, 0#64, none⟩)

/-- R241: VERIFY's four flags, its two answers, and that it passes in every state that satisfies I1 to I3. -/
def Obligations.VerifyChecksInvariants : Prop :=
  ∀ s : State,
    (s.valid = false → exec .verify s = .next (s.deliver ⟨2#4, 0#64, none⟩)) ∧
    (s.valid = true → s.rep.nib.length = s.rep.m → ∃ f : Data,
      (f.getLsbD 0 = true ↔
        s.rep.baselineCount.toNat ≠ ((List.range s.rep.m).filter fun b => s.rep.nibAt b = 0#4).length) ∧
      (f.getLsbD 1 = true ↔ s.rep.ovf.valid = true ∧ s.rep.ovf.bucket.toNat < s.rep.m ∧
        s.rep.nibAt s.rep.ovf.bucket.toNat ≠ 15#4) ∧
      (f.getLsbD 2 = true ↔ s.rep.ovf.valid = true ∧ s.rep.m ≤ s.rep.ovf.bucket.toNat) ∧
      (f.getLsbD 3 = true ↔ s.rep.ovf.valid = false ∧ (s.rep.ovf.value ≠ 0#8 ∨ s.rep.ovf.bucket ≠ 0#16)) ∧
      f.extractLsb' 4 60 = 0#60 ∧
      exec .verify s = .next (s.deliver (if f = 0#64 then ⟨0#4, 0#64, none⟩ else ⟨10#4, f, none⟩))) ∧
    (s.valid = true → s.rep.Inv → exec .verify s = .next (s.deliver ⟨0#4, 0#64, none⟩))

/-- R242, R27: READ_BUCKET answers the value in DATA[15:0], the nibble in [19:16] and the slot bit in [20]. -/
def Obligations.ReadBucketAnswersValue : Prop :=
  ∀ (s : State) (bucket : BitVec 16),
    (s.valid = false → exec (.readBucket bucket) s = .next (s.deliver ⟨2#4, 0#64, none⟩)) ∧
    (s.valid = true → 2 ^ s.rep.p.toNat ≤ bucket.toNat →
      exec (.readBucket bucket) s = .next (s.deliver ⟨3#4, 0#64, none⟩)) ∧
    (s.valid = true → bucket.toNat < 2 ^ s.rep.p.toNat →
      ∃ d : Data, exec (.readBucket bucket) s = .next (s.deliver ⟨0#4, d, none⟩) ∧
        (d.extractLsb' 0 16).toNat = s.rep.baseline.toNat + (s.rep.nibAt bucket.toNat).toNat +
          (if s.rep.ovf.valid = true ∧ s.rep.ovf.bucket = bucket then s.rep.ovf.value.toNat else 0) ∧
        d.extractLsb' 16 4 = s.rep.nibAt bucket.toNat ∧
        (d.getLsbD 20 = true ↔ s.rep.ovf.valid = true ∧ s.rep.ovf.bucket = bucket) ∧
        d.extractLsb' 21 43 = 0#43)

/-- R243, R33 to R42: READ_CSR of every CSR number, valid or not. -/
def Obligations.ReadCsrView : Prop :=
  ∀ s : State,
    exec (.readCsr 0x00#8) s = .next (s.deliver ⟨0#4, if s.valid = true then 1#64 else 0#64, none⟩) ∧
    (∃ d : Data, exec (.readCsr 0x08#8) s = .next (s.deliver ⟨0#4, d, none⟩) ∧ d.extractLsb' 0 8 = 16#8 ∧
      d.getLsbD 8 = s.cfg.hasPacker ∧ d.extractLsb' 9 7 = 0#7 ∧ d.extractLsb' 16 8 = s.cfg.tagDenseV1 ∧
      d.extractLsb' 24 8 = s.cfg.tagSparseV2 ∧ d.extractLsb' 32 8 = s.cfg.tagSparseV1 ∧ d.extractLsb' 40 24 = 0#24) ∧
    (∀ c : BitVec 8, c ≠ 0x00#8 → c ≠ 0x08#8 → s.valid = false →
      exec (.readCsr c) s = .next (s.deliver ⟨2#4, 0#64, none⟩)) ∧
    (s.valid = true →
      (∃ d : Data, exec (.readCsr 0x01#8) s = .next (s.deliver ⟨0#4, d, none⟩) ∧ d.toNat = s.rep.p.toNat) ∧
      (∃ d : Data, exec (.readCsr 0x02#8) s = .next (s.deliver ⟨0#4, d, none⟩) ∧ d.toNat = 2 ^ s.rep.p.toNat) ∧
      (∃ d : Data, exec (.readCsr 0x03#8) s = .next (s.deliver ⟨0#4, d, none⟩) ∧ d.toNat = s.rep.baseline.toNat) ∧
      (∃ d : Data, exec (.readCsr 0x04#8) s = .next (s.deliver ⟨0#4, d, none⟩) ∧
        d.toNat = s.rep.baselineCount.toNat) ∧
      (∃ d : Data, exec (.readCsr 0x05#8) s = .next (s.deliver ⟨0#4, d, none⟩) ∧
        d.extractLsb' 0 16 = s.rep.ovf.bucket ∧ d.getLsbD 16 = s.rep.ovf.valid ∧ d.extractLsb' 17 47 = 0#47) ∧
      (∃ d : Data, exec (.readCsr 0x06#8) s = .next (s.deliver ⟨0#4, d, none⟩) ∧ d.toNat = s.rep.ovf.value.toNat) ∧
      (∃ d : Data, exec (.readCsr 0x07#8) s = .next (s.deliver ⟨0#4, d, none⟩) ∧
        d.toNat = 2 ^ s.rep.p.toNat / 2 + 6) ∧
      (∀ c : BitVec 8, 0x09 ≤ c.toNat → exec (.readCsr c) s = .next (s.deliver ⟨3#4, 0#64, none⟩)))
end

