-- ==== Sys2Proof/Laws/Encoding.lean ====
section
/-! SUPPORT. The fields of a packed word (spec/30_encoding.md R71, R79). -/

namespace Sys2Proof

section Pack
variable (op a8 : BitVec 8) (a16 : BitVec 16) (a64 : BitVec 64)

@[simp] theorem opField_packWord : opField (packWord op a8 a16 a64) = op := by
  ext i hi
  simp only [opField, packWord, BitVec.getElem_extractLsb', BitVec.getLsbD_append]
  have h1 : ¬ 88 + i < 64 := by omega
  have h2 : ¬ 88 + i - 64 < 16 := by omega
  have h3 : ¬ 88 + i - 64 - 16 < 8 := by omega
  have h4 : 88 + i - 64 - 16 - 8 = i := by omega
  simp [h1, h2, h3, h4, BitVec.getLsbD_eq_getElem hi]

@[simp] theorem a8Field_packWord : a8Field (packWord op a8 a16 a64) = a8 := by
  ext i hi
  simp only [a8Field, packWord, BitVec.getElem_extractLsb', BitVec.getLsbD_append]
  have h1 : ¬ 80 + i < 64 := by omega
  have h2 : ¬ 80 + i - 64 < 16 := by omega
  have h3 : 80 + i - 64 - 16 < 8 := by omega
  have h4 : 80 + i - 64 - 16 = i := by omega
  simp [h1, h2, h4, hi]

@[simp] theorem a16Field_packWord : a16Field (packWord op a8 a16 a64) = a16 := by
  ext i hi
  simp only [a16Field, packWord, BitVec.getElem_extractLsb', BitVec.getLsbD_append]
  have h1 : ¬ 64 + i < 64 := by omega
  have h2 : 64 + i - 64 = i := by omega
  simp [h1, h2, hi]

@[simp] theorem a64Field_packWord : a64Field (packWord op a8 a16 a64) = a64 := by
  ext i hi
  simp only [a64Field, packWord, BitVec.getElem_extractLsb', BitVec.getLsbD_append]
  simp [hi]

end Pack

/-- Every word is its four fields. -/
theorem packWord_fields (w : CmdWord) : packWord (opField w) (a8Field w) (a16Field w) (a64Field w) = w := by
  ext i hi
  rw [← BitVec.getLsbD_eq_getElem hi]
  simp only [opField, a8Field, a16Field, a64Field, packWord, BitVec.getLsbD_append, BitVec.getLsbD_extractLsb']
  by_cases h1 : i < 64
  · simp [h1, BitVec.getLsbD_eq_getElem hi]
  · by_cases h2 : i - 64 < 16
    · have : 64 + (i - 64) = i := by omega
      simp [h1, h2, this, BitVec.getLsbD_eq_getElem hi]
    · by_cases h3 : i - 64 - 16 < 8
      · have : 80 + (i - 64 - 16) = i := by omega
        simp [h1, h2, h3, this, BitVec.getLsbD_eq_getElem hi]
      · have h4 : i - 64 - 16 - 8 < 8 := by omega
        have : 88 + (i - 64 - 16 - 8) = i := by omega
        simp [h1, h2, h3, h4, this, BitVec.getLsbD_eq_getElem hi]

end Sys2Proof
end

