-- ==== Sys2Proof/Laws/State.lean ====
section
/-! SUPPORT. One lemma per field per update of `State` and `Dense`. -/

namespace Sys2Proof
namespace Machine

section Deliver
variable (s : State) (r : Response)
@[simp] theorem State.deliver_valid : (s.deliver r).valid = s.valid := rfl
@[simp] theorem State.deliver_rep : (s.deliver r).rep = s.rep := rfl
@[simp] theorem State.deliver_cfg : (s.deliver r).cfg = s.cfg := rfl
@[simp] theorem State.deliver_inputs : (s.deliver r).inputs = s.inputs := rfl
@[simp] theorem State.deliver_responses : (s.deliver r).responses = s.responses ++ [r] := rfl
@[simp] theorem State.deliver_freeIndex : (s.deliver r).freeIndex = s.freeIndex := rfl
end Deliver

section HoldUpdate
variable (s : State) (D : Dense)
@[simp] theorem State.hold_valid : (s.hold D).valid = true := rfl
@[simp] theorem State.hold_rep : (s.hold D).rep = D := rfl
@[simp] theorem State.hold_cfg : (s.hold D).cfg = s.cfg := rfl
@[simp] theorem State.hold_inputs : (s.hold D).inputs = s.inputs := rfl
@[simp] theorem State.hold_responses : (s.hold D).responses = s.responses := rfl
@[simp] theorem State.hold_freeIndex : (s.hold D).freeIndex = s.freeIndex := rfl
@[simp] theorem State.update_valid : (s.update D).valid = s.valid := rfl
@[simp] theorem State.update_rep : (s.update D).rep = D := rfl
@[simp] theorem State.update_cfg : (s.update D).cfg = s.cfg := rfl
@[simp] theorem State.update_inputs : (s.update D).inputs = s.inputs := rfl
@[simp] theorem State.update_responses : (s.update D).responses = s.responses := rfl
@[simp] theorem State.update_freeIndex : (s.update D).freeIndex = s.freeIndex := rfl
end HoldUpdate

section ResetFetch
variable (s : State) (nbits w : Nat)
@[simp] theorem State.resetEvent_valid : s.resetEvent.valid = false := rfl
@[simp] theorem State.resetEvent_rep : s.resetEvent.rep = Dense.afterReset (Config.resetNib s.freeIndex) := rfl
@[simp] theorem State.resetEvent_cfg : s.resetEvent.cfg = s.cfg := rfl
@[simp] theorem State.resetEvent_inputs : s.resetEvent.inputs = s.inputs := rfl
@[simp] theorem State.resetEvent_responses : s.resetEvent.responses = s.responses := rfl
@[simp] theorem State.resetEvent_freeIndex : s.resetEvent.freeIndex = s.freeIndex + 1 := rfl
@[simp] theorem State.withFetchWord_valid : (s.withFetchWord nbits w).valid = s.valid := rfl
@[simp] theorem State.withFetchWord_rep : (s.withFetchWord nbits w).rep = s.rep := rfl
@[simp] theorem State.withFetchWord_cfg : (s.withFetchWord nbits w).cfg = s.cfg := rfl
@[simp] theorem State.withFetchWord_responses : (s.withFetchWord nbits w).responses = s.responses := rfl
@[simp] theorem State.withFetchWord_freeIndex : (s.withFetchWord nbits w).freeIndex = s.freeIndex := rfl
@[simp] theorem State.withFetchWord_inputs :
    (s.withFetchWord nbits w).inputs = .command (tableCommand nbits w) :: s.inputs := rfl
end ResetFetch

section DenseUpdates
variable (D E : Dense) (b delta : Nat) (n : Nibble)
@[simp] theorem raisePass_p : (raisePass D).p = D.p := rfl
@[simp] theorem raisePass_baseline : (raisePass D).baseline = D.baseline + 1#8 := rfl
@[simp] theorem raisePass_nib : (raisePass D).nib = nibAfterPass D.ovf D.nib := rfl
@[simp] theorem raisePass_ovf : (raisePass D).ovf = D.ovf.afterPass := rfl
@[simp] theorem raisePass_m : (raisePass D).m = D.m := rfl
@[simp] theorem writeDelta_p : (writeDelta D b delta).p = D.p := rfl
@[simp] theorem writeDelta_baseline : (writeDelta D b delta).baseline = D.baseline := rfl
@[simp] theorem writeDelta_nib :
    (writeDelta D b delta).nib = D.nib.set b (BitVec.ofNat 4 (clampDelta delta)) := rfl
@[simp] theorem writeDelta_ovf : (writeDelta D b delta).ovf = slotAfterDelta D.ovf b delta := rfl
@[simp] theorem writeDelta_m : (writeDelta D b delta).m = D.m := rfl
@[simp] theorem fresh_p (p : Nat) : (fresh p).p = BitVec.ofNat 5 p := rfl
@[simp] theorem fresh_baseline (p : Nat) : (fresh p).baseline = 0#8 := rfl
@[simp] theorem fresh_baselineCount (p : Nat) : (fresh p).baselineCount = BitVec.ofNat 17 (2 ^ p) := rfl
@[simp] theorem fresh_nib (p : Nat) : (fresh p).nib = List.replicate (2 ^ p) 0#4 := rfl
@[simp] theorem fresh_ovf (p : Nat) : (fresh p).ovf = Slot.empty := rfl
@[simp] theorem afterReset_p : (Dense.afterReset n).p = 0#5 := rfl
@[simp] theorem afterReset_baseline : (Dense.afterReset n).baseline = 0#8 := rfl
@[simp] theorem afterReset_baselineCount : (Dense.afterReset n).baselineCount = 0#17 := rfl
@[simp] theorem afterReset_ovf : (Dense.afterReset n).ovf = Slot.empty := rfl
@[simp] theorem afterReset_nib : (Dense.afterReset n).nib = [n] := rfl
end DenseUpdates

end Machine
end Sys2Proof
end

