-- ==== Sys2Proof/Laws/Ops.lean ====
section
/-! SUPPORT. What the shared operations can do, once each. -/

namespace Sys2Proof
namespace Machine

/-- A failure is a next state: the status is delivered and nothing else happens. -/
@[simp] theorem fail_eq (st : Status) (s : State) : fail st s = .next (s.deliver (failResponse st 0#64)) := rfl

@[simp] theorem failWithData_eq (st : Status) (d : Data) (s : State) :
    failWithData st d s = .next (s.deliver (failResponse st d)) := rfl

@[simp] theorem respond_eq (d : Data) (img : Option Image) (s : State) :
    respond d img s = .next (s.deliver (okResponse d img)) := rfl

theorem requireValid_of_valid {s : State} (h : s.valid = true) (k : Host.Outcome State Fault Refusal) :
    requireValid s k = k := by simp [requireValid, h]

theorem requireValid_of_not_valid {s : State} (h : s.valid = false) (k : Host.Outcome State Fault Refusal) :
    requireValid s k = .next (s.deliver (failResponse .notInitialized 0#64)) := by simp [requireValid, h]

theorem requireValid_next {s t : State} {k : Host.Outcome State Fault Refusal} (h : requireValid s k = .next t) :
    (s.valid = true ∧ k = .next t) ∨ (s.valid = false ∧ t = s.deliver (failResponse .notInitialized 0#64)) := by
  unfold requireValid at h
  split at h
  · exact .inl ⟨‹_›, h⟩
  · exact .inr ⟨by simpa using ‹¬ s.valid = true›, by simpa using h.symm⟩

theorem requirePacker_of_packer {s : State} (h : s.cfg.hasPacker = true) (k : Host.Outcome State Fault Refusal) :
    requirePacker s k = k := by simp [requirePacker, h]

theorem requirePacker_of_no_packer {s : State} (h : s.cfg.hasPacker = false) (k : Host.Outcome State Fault Refusal) :
    requirePacker s k = .next (s.deliver (failResponse .illegalCommand 0#64)) := by
  simp [requirePacker, illegalCommand, h]

theorem takeInput_nil {s : State} (h : s.inputs = []) : s.takeInput = none := by simp [State.takeInput, h]

theorem takeInput_cons {s : State} {x : Input} {rest : List Input} (h : s.inputs = x :: rest) :
    s.takeInput = some (x, { s with inputs := rest }) := by simp [State.takeInput, h]

/-! ## The slot -/

theorem claim_cases (o : Slot) (b e : Nat) :
    (e ≤ o.value.toNat ∧ o.claim b e = o) ∨
    (o.value.toNat < e ∧ o.claim b e = ⟨true, BitVec.ofNat 16 b, BitVec.ofNat 8 e⟩) := by
  unfold Slot.claim
  split
  · exact .inr ⟨‹_›, rfl⟩
  · exact .inl ⟨by omega, rfl⟩

theorem excessOf_le (o : Slot) (b : Nat) : o.excessOf b ≤ 255 := by
  unfold Slot.excessOf
  split
  · exact Nat.le_of_lt_succ o.value.isLt
  · exact Nat.zero_le _

/-- R27: value(b) lies in [0, 525]. -/
theorem value_le (D : Dense) (b : Nat) : D.value b ≤ 525 := by
  have h1 : D.baseline.toNat < 256 := D.baseline.isLt
  have h2 : (D.nibAt b).toNat < 16 := (D.nibAt b).isLt
  have h3 := excessOf_le D.ovf b
  unfold Dense.value
  omega

/-! ## The register file -/

theorem zeroCount_le_length (nib : List Nibble) : zeroCount nib ≤ nib.length := List.count_le_length

theorem nibAt_eq_getElem {D : Dense} {b : Nat} (h : b < D.nib.length) : D.nibAt b = D.nib[b] := by
  simp [Dense.nibAt, h]

@[simp] theorem values_length (D : Dense) : D.values.length = D.nib.length := by simp [Dense.values]

theorem values_getElem (D : Dense) {b : Nat} (h : b < D.values.length) : D.values[b] = D.value b := by
  have hb : b < D.nib.length := by simpa using h
  simp [Dense.values, Dense.value, nibAt_eq_getElem hb]

@[simp] theorem nibAfterPass_length (o : Slot) (nib : List Nibble) : (nibAfterPass o nib).length = nib.length := by
  simp [nibAfterPass]

theorem nibAfterPass_getElem (o : Slot) (nib : List Nibble) {b : Nat} (h : b < (nibAfterPass o nib).length) :
    (nibAfterPass o nib)[b] =
      if o.absorbs b then nib[b]'(by simpa using h) else nib[b]'(by simpa using h) - 1#4 := by
  simp [nibAfterPass]

/-- The nibbles written one by one: reading after `set`. -/
theorem writeDelta_nibAt (D : Dense) {b : Nat} (delta c : Nat) (h : b < D.nib.length) :
    (writeDelta D b delta).nibAt c = if c = b then BitVec.ofNat 4 (clampDelta delta) else D.nibAt c := by
  unfold Dense.nibAt writeDelta
  by_cases hc : c = b
  · subst hc; simp [h]
  · simp [hc, List.getD_eq_getElem?_getD, List.getElem?_set_ne (Ne.symm hc)]

/-! ## raise_baseline and insert_core -/

/-- What holds of D and is kept by every pass the procedure makes holds of `raiseBaseline D`. -/
theorem raiseBaseline_induct {motive : Dense → Prop} (D : Dense) (start : motive D)
    (pass : ∀ E, motive E → E.baselineCount = 0#17 → E.baseline ≠ 255#8 → motive (raisePass E)) :
    motive (raiseBaseline D) := by
  have loop : ∀ n E, motive E → n + E.baseline.toNat ≤ 255 → motive (raiseLoop n E) := by
    intro n
    induction n with
    | zero => intro E h _; exact h
    | succ n ih =>
      intro E h hn
      unfold raiseLoop
      split
      · have hb : E.baseline ≠ 255#8 := by
          intro hb
          rw [hb] at hn
          simp at hn
        refine ih _ (pass E h ‹_› hb) ?_
        have : (E.baseline + 1#8).toNat ≤ E.baseline.toNat + 1 := by
          rw [BitVec.toNat_add]
          exact Nat.mod_le _ _
        simp only [raisePass_baseline]
        omega
      · exact h
  exact loop _ _ start (by have := D.baseline.isLt; omega)

@[simp] theorem raiseBaseline_p (D : Dense) : (raiseBaseline D).p = D.p :=
  raiseBaseline_induct (motive := fun E => E.p = D.p) D rfl fun _ h _ _ => h

@[simp] theorem raiseBaseline_length (D : Dense) : (raiseBaseline D).nib.length = D.nib.length :=
  raiseBaseline_induct (motive := fun E => E.nib.length = D.nib.length) D rfl fun _ h _ _ => by simpa using h

/-- Everything `insertCore` can do: nothing; a write; a write and then the raise. -/
theorem insertCore_cases (D : Dense) (b v : Nat) :
    (v ≤ D.baseline.toNat + (D.nibAt b).toNat ∧ insertCore D b v = D) ∨
    (D.baseline.toNat + (D.nibAt b).toNat < v ∧
      ¬ (D.nibAt b = 0#4 ∧ (writeDelta D b (v - D.baseline.toNat)).baselineCount = 0#17) ∧
      insertCore D b v = writeDelta D b (v - D.baseline.toNat)) ∨
    (D.baseline.toNat + (D.nibAt b).toNat < v ∧
      (D.nibAt b = 0#4 ∧ (writeDelta D b (v - D.baseline.toNat)).baselineCount = 0#17) ∧
      insertCore D b v = raiseBaseline (writeDelta D b (v - D.baseline.toNat))) := by
  unfold insertCore
  split
  · exact .inl ⟨‹_›, rfl⟩
  · unfold raiseIfEmptied
    split
    · exact .inr (.inr ⟨by omega, ‹_›, rfl⟩)
    · exact .inr (.inl ⟨by omega, ‹_›, rfl⟩)

@[simp] theorem insertCore_p (D : Dense) (b v : Nat) : (insertCore D b v).p = D.p := by
  rcases insertCore_cases D b v with ⟨_, h⟩ | ⟨_, _, h⟩ | ⟨_, _, h⟩ <;> simp [h]

@[simp] theorem insertCore_length (D : Dense) (b v : Nat) : (insertCore D b v).nib.length = D.nib.length := by
  rcases insertCore_cases D b v with ⟨_, h⟩ | ⟨_, _, h⟩ | ⟨_, _, h⟩ <;> simp [h]

theorem toDense_p_length (p : Nat) (es : List SparseEntry) :
    (toDense p es).p = BitVec.ofNat 5 p ∧ (toDense p es).nib.length = 2 ^ p := by
  unfold toDense
  have step : ∀ (es : List SparseEntry) (D : Dense), D.p = BitVec.ofNat 5 p ∧ D.nib.length = 2 ^ p →
      (es.foldl (fun D e => insertCore D (entryBucket p e) (entryValue p e)) D).p = BitVec.ofNat 5 p ∧
      (es.foldl (fun D e => insertCore D (entryBucket p e) (entryValue p e)) D).nib.length = 2 ^ p := by
    intro es
    induction es with
    | nil => exact fun D h => h
    | cons e es ih => exact fun D h => ih _ (by simpa using h)
  exact step es _ (by simp)

/-! ## The canonical form of the register file -/

@[simp] theorem wf_iff (p : Nat) (nib : List Nibble) : NibFile.wf p nib = true ↔ nib.length = 2 ^ p := by
  simp [NibFile.wf]

/-- R44, R20: P = 0 after reset, and the file is the one entry NIB[0]. -/
theorem reset_wf : NibFile.wf State.reset.rep.p.toNat State.reset.rep.nib = true := by
  simp [State.reset]

theorem resetEvent_wf (s : State) : NibFile.wf s.resetEvent.rep.p.toNat s.resetEvent.rep.nib = true := by simp

theorem fresh_wf {p : Nat} (h : p ≤ 16) : NibFile.wf (fresh p).p.toNat (fresh p).nib = true := by
  have : p % 32 = p := Nat.mod_eq_of_lt (by omega)
  simp [this]

theorem raiseBaseline_wf {D : Dense} (h : NibFile.wf D.p.toNat D.nib = true) :
    NibFile.wf (raiseBaseline D).p.toNat (raiseBaseline D).nib = true := by simpa using h

theorem insertCore_wf {D : Dense} (b v : Nat) (h : NibFile.wf D.p.toNat D.nib = true) :
    NibFile.wf (insertCore D b v).p.toNat (insertCore D b v).nib = true := by simpa using h

theorem toDense_wf {p : Nat} (hp : p ≤ 16) (es : List SparseEntry) :
    NibFile.wf (toDense p es).p.toNat (toDense p es).nib = true := by
  have h := toDense_p_length p es
  have : p % 32 = p := Nat.mod_eq_of_lt (by omega)
  simp [h.1, h.2, this]

theorem mergeCore_wf {S O : Dense} (hp : O.p = S.p) (hS : NibFile.wf S.p.toNat S.nib = true)
    (hO : NibFile.wf O.p.toNat O.nib = true) :
    NibFile.wf (mergeCore S O).p.toNat (mergeCore S O).nib = true := by
  simp only [wf_iff] at hS hO
  simp [mergeCore, rebuild, rebuiltNib, mergedValues, hS, hO, hp]

end Machine
end Sys2Proof
end

