-- ==== Sys2Proof/Laws/Idempotence.lean ====
section
/-! SUPPORT. Why 20_memory.md R58's inference cannot stand beside R28, R29 and R149 (log entry 11). -/

namespace Sys2Proof
namespace Machine

/-- P = 1, `INSERT 0, 25` from a fresh representation: values 25 and 0. -/
def beforeClamp : Dense := ⟨1#5, 0#8, 1#17, [15#4, 0#4], ⟨true, 0#16, 10#8⟩⟩

/-- An insert whose value v is at bucket b with `BASELINE + 15 < v` and an excess that does not win the slot (R149). -/
abbrev LosesSlot (D : Dense) (v : Nat) : Prop :=
  D.baseline.toNat + 15 < v ∧ v - D.baseline.toNat - 15 ≤ D.ovf.value.toNat

/-- Two buckets with values 25 and 15, one of them at delta 0 (R29): the baseline is 15 (R27, R28 I1 and I2). -/
theorem baseline_of_values {E : Dense} (inv : E.Inv) (hp : E.p = 1#5) (some0 : 1 ≤ E.baselineCount.toNat)
    (v0 : E.value 0 = 25) (v1 : E.value 1 = 15) : E.baseline.toNat = 15 := by
  obtain ⟨-, len, count, slot, -⟩ := inv
  have excess0 (b : Nat) (h : E.nibAt b = 0#4) : E.ovf.excessOf b = 0 := by
    unfold Slot.excessOf
    split
    · rename_i c
      have := (slot c.1).2
      rw [c.2, h] at this
      exact absurd this (by decide)
    · rfl
  have len2 : E.nib.length = 2 := by rw [len, Dense.m, hp]; rfl
  match hn : E.nib, len2 with
  | [a, c], _ =>
    have n0 : E.nibAt 0 = a := by simp [Dense.nibAt, hn]
    have n1 : E.nibAt 1 = c := by simp [Dense.nibAt, hn]
    have zero : a = 0#4 ∨ c = 0#4 := by
      by_contra h
      rw [not_or] at h
      rw [count, hn] at some0
      simp [zeroCount, h.1, h.2] at some0
    rcases zero with h | h
    · have := excess0 0 (n0.trans h)
      simp only [Dense.value, n0, h, this] at v0
      simp only [Dense.value] at v1
      have z : (0#4 : BitVec 4).toNat = 0 := rfl
      omega
    · have := excess0 1 (n1.trans h)
      simp only [Dense.value, n1, h, this] at v1
      have z : (0#4 : BitVec 4).toNat = 0 := rfl
      omega

/-- WHATEVER an insert does (`ins` is any function, not the model's), if it keeps R28 and P, leaves a bucket at delta 0
where there was one (R29, below saturation), and gives values as R149's bullets say (the bucket itself; every other
bucket while the slot does not move), then it is not idempotent: R58's remark contradicts R27, R28, R29 and R149. The
model's `insertCore` is such a function (obligations O21, O28, O35). -/
theorem insert_not_idempotent_of_r149 (ins : Dense → Nat → Nat → Dense)
    (r28 : ∀ D b v, D.Inv → b < D.m → v ≤ 255 → (ins D b v).Inv ∧ (ins D b v).p = D.p)
    (r29 : ∀ D b v, D.Inv → b < D.m → v ≤ 255 → 1 ≤ D.baselineCount.toNat →
      1 ≤ (ins D b v).baselineCount.toNat ∨ (ins D b v).baseline = 255#8)
    (r149 : ∀ D b v, D.Inv → b < D.m → v ≤ 255 → ¬ LosesSlot D v → (ins D b v).value b = max (D.value b) v)
    (r149_loses : ∀ D b v, D.Inv → b < D.m → v ≤ 255 → LosesSlot D v →
      (ins D b v).value b = max (D.value b) (D.baseline.toNat + 15))
    (r149_others : ∀ D b v b', D.Inv → b < D.m → v ≤ 255 → LosesSlot D v → b' < D.m → b' ≠ b →
      (ins D b v).value b' = D.value b') :
    ins (ins beforeClamp 1 20) 1 20 ≠ ins beforeClamp 1 20 := by
  have inv : beforeClamp.Inv := by decide
  have loses : LosesSlot beforeClamp 20 := by decide
  have m2 : (1 : Nat) < beforeClamp.m := by decide
  obtain ⟨inv', hp⟩ := r28 beforeClamp 1 20 inv m2 (by decide)
  have v0 : (ins beforeClamp 1 20).value 0 = 25 :=
    r149_others beforeClamp 1 20 0 inv m2 (by decide) loses (by decide) (by decide)
  have v1 : (ins beforeClamp 1 20).value 1 = 15 := r149_loses beforeClamp 1 20 inv m2 (by decide) loses
  have some0 : 1 ≤ (ins beforeClamp 1 20).baselineCount.toNat := by
    refine (r29 beforeClamp 1 20 inv m2 (by decide) (by decide)).resolve_right fun h => ?_
    simp only [Dense.value, h] at v1
    have z : (255#8 : BitVec 8).toNat = 255 := rfl
    omega
  have base := baseline_of_values inv' hp some0 v0 v1
  intro same
  have v2 := r149 (ins beforeClamp 1 20) 1 20 inv' (by rw [Dense.m, hp]; decide) (by decide) (by omega)
  rw [same, v1] at v2
  exact absurd v2 (by decide)

end Machine
end Sys2Proof
end

