-- ==== Sys2Proof/Laws/Images.lean ====
section
/-! SUPPORT. Packing and unpacking nibbles, and what a parse that succeeds says. -/

namespace Sys2Proof
namespace Machine

@[simp] theorem unpackNibbles_length (bs : List Byte) : (unpackNibbles bs).length = 2 * bs.length := by
  induction bs with
  | nil => rfl
  | cons x rest ih => simp [unpackNibbles, ih]; omega

theorem packNibbles_length : ∀ nib : List Nibble, (packNibbles nib).length = nib.length / 2
  | [] => rfl
  | [_] => by simp [packNibbles]
  | a :: b :: rest => by
    simp only [packNibbles, List.length_cons, packNibbles_length rest]
    omega

theorem high_nibble : ∀ a b : Nibble, (a ++ b : BitVec 8).extractLsb' 4 4 = a := by decide

theorem low_nibble : ∀ a b : Nibble, (a ++ b : BitVec 8).extractLsb' 0 4 = b := by decide

theorem packNibbles_unpackNibbles (bs : List Byte) : packNibbles (unpackNibbles bs) = bs := by
  induction bs with
  | nil => rfl
  | cons x rest ih =>
    have hx : (x.extractLsb' 4 4 ++ x.extractLsb' 0 4 : BitVec 8) = x := by revert x; decide
    simp only [unpackNibbles, packNibbles, ih, hx]

theorem unpackNibbles_packNibbles : ∀ nib : List Nibble, nib.length % 2 = 0 → unpackNibbles (packNibbles nib) = nib
  | [], _ => rfl
  | [_], h => by simp at h
  | a :: b :: rest, h => by
    have hr : rest.length % 2 = 0 := by
      simp only [List.length_cons] at h
      omega
    simp only [packNibbles, unpackNibbles, unpackNibbles_packNibbles rest hr, high_nibble, low_nibble]

/-- A legal precision fits the field P. -/
theorem densePrecision_bounds {p : Nat} (h : densePrecision p = true) : 1 ≤ p ∧ p ≤ 16 := by
  simpa [densePrecision] using h

theorem two_dvd_pow {p : Nat} (h : 1 ≤ p) : 2 ^ p / 2 * 2 = 2 ^ p := by
  obtain ⟨k, rfl⟩ : ∃ k, p = k + 1 := ⟨p - 1, by omega⟩
  rw [Nat.pow_succ]
  omega

/-- The register file of an image of the right length has m entries. -/
theorem imageNib_length {p : Nat} {img : Image} (hp : 1 ≤ p) (h : img.length = denseImageSize p) :
    (imageNib p img).length = 2 ^ p := by
  have := two_dvd_pow hp
  simp only [imageNib, deltaBytes, unpackNibbles_length, List.length_take, List.length_drop, h, denseImageSize]
  omega

/-- Everything a dense image that parses satisfies (R216). -/
theorem parseDense_ok {img : Image} {D : Dense} (h : parseDense img = .ok D) :
    ∃ p, p = (imgByte img 1).toNat ∧ (1 ≤ p ∧ p ≤ 16) ∧ img.length = denseImageSize p ∧
      ((imageU p img = 0xFFFF#16 ∧ imageOv p img = 0#8 ∧ D = imageDense p img Slot.empty) ∨
       (imageU p img ≠ 0xFFFF#16 ∧ (imageU p img).toNat < 2 ^ p ∧
        (imageNib p img).getD (imageU p img).toNat 0#4 = 15#4 ∧
        D = imageDense p img ⟨true, imageU p img, imageOv p img⟩)) := by
  unfold parseDense at h
  split at h
  · cases h
  · split at h
    · cases h
    · split at h
      · cases h
      · rename_i hp hl
        refine ⟨_, rfl, densePrecision_bounds (by simpa using hp), by simpa using hl, ?_⟩
        unfold parseDenseBody at h
        split at h
        · split at h
          · cases h
          · rename_i hu hov
            exact .inl ⟨hu, by simpa using hov, by simpa using h.symm⟩
        · split at h
          · cases h
          · split at h
            · cases h
            · rename_i hu hm hn
              exact .inr ⟨hu, by omega, by simpa using hn, by simpa using h.symm⟩

/-- Everything a sparse image that parses satisfies (R122). -/
theorem parseSparse_ok {img : Image} {p : Nat} {es : List SparseEntry} (h : parseSparse img = .ok (p, es)) :
    p = (imgByte img 1).toNat ∧ (1 ≤ p ∧ p ≤ 16) ∧ img.length = 4 + 4 * (be16 img 2).toNat ∧
      es = sparseEntries img 0 (be16 img 2).toNat ∧ ascending es = true := by
  unfold parseSparse at h
  split at h
  · cases h
  · split at h
    · cases h
    · split at h
      · cases h
      · split at h
        · cases h
        · split at h
          · cases h
          · rename_i hp hl ha h16
            simp only [Except.ok.injEq, Prod.mk.injEq] at h
            obtain ⟨rfl, rfl⟩ := h
            refine ⟨rfl, ?_, by simpa using hl, rfl, by simpa using ha⟩
            simp [sparsePrecision] at hp
            omega

/-- Everything an image that parses can be (R215): a sparse image or, with the packer, a dense one. -/
theorem parseImage_ok {cfg : HwConfig} {img : Image} {D : Dense} (h : parseImage cfg img = .ok D) :
    1 ≤ img.length ∧
    ((∃ p es, imgByte img 0 = cfg.tagSparseV2 ∧ parseSparse img = .ok (p, es) ∧ D = toDense p es) ∨
     (imgByte img 0 = cfg.tagDenseV1 ∧ cfg.hasPacker = true ∧ parseDense img = .ok D)) := by
  unfold parseImage at h
  split at h
  · cases h
  · refine ⟨by omega, ?_⟩
    split at h
    · cases h
    · split at h
      · rename_i htag
        unfold convertSparse at h
        split at h
        · cases h
        · rename_i pe hpe
          exact .inl ⟨pe.1, pe.2, htag, hpe, by simpa using h.symm⟩
      · split at h
        · rename_i hd
          exact .inr ⟨hd.1, hd.2, h⟩
        · cases h

theorem parseDense_wf {img : Image} {D : Dense} (h : parseDense img = .ok D) : NibFile.wf D.p.toNat D.nib = true := by
  obtain ⟨p, -, ⟨h1, h16⟩, hl, h | h⟩ := parseDense_ok h
  all_goals
    have hp : p % 32 = p := Nat.mod_eq_of_lt (by omega)
    have hlen := imageNib_length h1 hl
    first
    | (obtain ⟨-, -, rfl⟩ := h; simp [imageDense, hp, hlen])
    | (obtain ⟨-, -, -, rfl⟩ := h; simp [imageDense, hp, hlen])

theorem parseImage_wf {cfg : HwConfig} {img : Image} {D : Dense} (h : parseImage cfg img = .ok D) :
    NibFile.wf D.p.toNat D.nib = true := by
  obtain ⟨-, ⟨p, es, -, hs, rfl⟩ | ⟨-, -, hd⟩⟩ := parseImage_ok h
  · exact toDense_wf (parseSparse_ok hs).2.1.2 es
  · exact parseDense_wf hd

end Machine
end Sys2Proof
end

