-- ==== Sys2Proof/Laws/PerInstr.lean ====
section
/-! SUPPORT. Per-instruction families: each instruction's word matches its own row of spec/opcode_table.json. -/

namespace Sys2Proof

/-- A word and a mask, field by field. -/
theorem packWord_and (op op' a8 a8' : BitVec 8) (a16 a16' : BitVec 16) (a64 a64' : BitVec 64) :
    packWord op a8 a16 a64 &&& packWord op' a8' a16' a64' =
      packWord (op &&& op') (a8 &&& a8') (a16 &&& a16') (a64 &&& a64') := by
  simp only [packWord]
  rw [BitVec.and_append, BitVec.and_append, BitVec.and_append]

namespace Laws
namespace MatchesRow

/-- The instruction's word matches the row of its mnemonic. -/
def Statement (i : Instr) : Prop := ∃ r ∈ opcodeTable, r.mnemonic = i.mnemonic ∧ r.matchesWord (encodeWord i) = true

theorem nop : Statement .nop := by unfold Statement; decide

theorem init (p : BitVec 8) : Statement (.init p) :=
  ⟨⟨"INIT", packWord 0x01#8 0#8 0#16 0#64, packWord 0xFF#8 0x00#8 0xFFFF#16 0xFFFFFFFFFFFFFFFF#64⟩,
    by decide, rfl, by simp [OpcodeRow.matchesWord, encodeWord, packWord_and]⟩

theorem insert (bucket : BitVec 16) (value : BitVec 8) : Statement (.insert bucket value) :=
  ⟨⟨"INSERT", packWord 0x02#8 0#8 0#16 0#64, packWord 0xFF#8 0x00#8 0x0000#16 0xFFFFFFFFFFFFFFFF#64⟩,
    by decide, rfl, by simp [OpcodeRow.matchesWord, encodeWord, packWord_and]⟩

theorem insertHash (hash : Hash) : Statement (.insertHash hash) :=
  ⟨⟨"INSERT_HASH", packWord 0x03#8 0#8 0#16 0#64, packWord 0xFF#8 0xFF#8 0xFFFF#16 0#64⟩,
    by decide, rfl, by simp [OpcodeRow.matchesWord, encodeWord, packWord_and]⟩

theorem decodeHash (hash : Hash) : Statement (.decodeHash hash) :=
  ⟨⟨"DECODE_HASH", packWord 0x04#8 0#8 0#16 0#64, packWord 0xFF#8 0xFF#8 0xFFFF#16 0#64⟩,
    by decide, rfl, by simp [OpcodeRow.matchesWord, encodeWord, packWord_and]⟩

theorem cardinality : Statement .cardinality := by unfold Statement; decide

theorem mergeImage (img : Image) : Statement (.mergeImage img) := by
  show ∃ r ∈ opcodeTable, r.mnemonic = "MERGE_IMAGE" ∧ r.matchesWord (packWord 0x06#8 0#8 0#16 0#64) = true
  decide

theorem loadImage (img : Image) : Statement (.loadImage img) := by
  show ∃ r ∈ opcodeTable, r.mnemonic = "LOAD_IMAGE" ∧ r.matchesWord (packWord 0x07#8 0#8 0#16 0#64) = true
  decide

theorem storeImage : Statement .storeImage := by unfold Statement; decide

theorem verify : Statement .verify := by unfold Statement; decide

theorem readBucket (bucket : BitVec 16) : Statement (.readBucket bucket) :=
  ⟨⟨"READ_BUCKET", packWord 0x0A#8 0#8 0#16 0#64, packWord 0xFF#8 0xFF#8 0x0000#16 0xFFFFFFFFFFFFFFFF#64⟩,
    by decide, rfl, by simp [OpcodeRow.matchesWord, encodeWord, packWord_and]⟩

theorem readCsr (csr : BitVec 8) : Statement (.readCsr csr) :=
  ⟨⟨"READ_CSR", packWord 0x0B#8 0#8 0#16 0#64, packWord 0xFF#8 0x00#8 0xFFFF#16 0xFFFFFFFFFFFFFFFF#64⟩,
    by decide, rfl, by simp [OpcodeRow.matchesWord, encodeWord, packWord_and]⟩

end MatchesRow
end Laws
end Sys2Proof
end

