-- ==== Sys2Proof/Laws/Rounding.lean ====
section
/-! SUPPORT. Rounding to the nearest integer, and to the nearest binary64 value. -/

namespace Sys2Proof
namespace Machine

/-- The rounded quotient is within half of the exact one. -/
theorem roundHalfEven_near (a : Nat) {d : Nat} (h : 0 < d) :
    2 * a ≤ 2 * (d * roundHalfEven a d) + d ∧ 2 * (d * roundHalfEven a d) ≤ 2 * a + d := by
  have hm := Nat.mod_add_div a d
  have hl := Nat.mod_lt a h
  unfold roundHalfEven
  split
  · omega
  · split
    · rw [Nat.mul_add, Nat.mul_one]; omega
    · split
      · omega
      · rw [Nat.mul_add, Nat.mul_one]; omega

/-- An exact quotient is kept. -/
theorem roundHalfEven_exact (q : Nat) {d : Nat} (h : 0 < d) : roundHalfEven (d * q) d = q := by
  unfold roundHalfEven
  simp [h]

/-! Rounding depends on the exact value alone, not on the fraction it is written as. -/

theorem roundHalfEven_scale (a d : Nat) {c : Nat} (h : 0 < c) : roundHalfEven (a * c) (d * c) = roundHalfEven a d := by
  have e : 2 * (a * c % (d * c)) = 2 * (a % d) * c := by rw [Nat.mul_mod_mul_right, Nat.mul_assoc]
  simp only [roundHalfEven, Nat.mul_div_mul_right _ _ h, e, Nat.mul_lt_mul_right h]

theorem roundMagnitude_scale (a d : Nat) {c : Nat} (h : 0 < c) : roundMagnitude (a * c) (d * c) = roundMagnitude a d := by
  simp only [roundMagnitude, lastPlace, Nat.mul_div_mul_right _ _ h]
  rw [Nat.mul_right_comm d c, roundHalfEven_scale a _ h]

theorem flUnits_scale (a : Int) (d : Nat) {c : Nat} (h : 0 < c) : flUnits (a * c) (d * c) = flUnits a d := by
  have hn : (a * c < 0) ↔ a < 0 := by
    constructor
    · intro k; by_contra q; exact absurd k (by have := Int.mul_nonneg (not_lt.mp q) (Int.natCast_nonneg c); omega)
    · intro k; exact Int.mul_neg_of_neg_of_pos k (by omega)
  simp only [flUnits, Int.natAbs_mul, Int.natAbs_natCast, roundMagnitude_scale _ _ h, hn]

/-- Two fractions of the same value round to the same binary64. -/
theorem flUnits_eq_of_ratio_eq {a a' : Int} {d d' : Nat} (h : 0 < d) (h' : 0 < d') (e : a * d' = a' * d) :
    flUnits a d = flUnits a' d' := by
  rw [← flUnits_scale a d h', ← flUnits_scale a' d' h, e, Nat.mul_comm]

@[simp] theorem neg64_neg64 (x : Binary64) : neg64 (neg64 x) = x := by cases x <;> simp [neg64]

end Machine
end Sys2Proof
end

