-- ==== Sys2Proof/Tests/Slice0.lean ====
section
/-! SUPPORT. Tests. Expected results come from spec/95_test_vectors.md (the vector is named) or from the rule named.
The `witness_` theorems show that the hypotheses of each statement can be met together, at the boundary values of its
clauses. -/

namespace Sys2Proof
namespace Tests
open Machine

/-! ## Small states -/

/-- The vectors' configuration: default tags and LN, the packer, empty bias tables. -/
def cfg : HwConfig := ⟨true, 0#8, 1#8, 2#8, List.replicate 16 [], .correctlyRounded⟩

/-- The same without the packer. -/
def cfgBare : HwConfig := ⟨false, 0#8, 1#8, 2#8, List.replicate 16 [], .correctlyRounded⟩

def stateOf (valid : Bool) (D : Dense) (inputs : List Input) : State := ⟨valid, D, cfg, inputs, [], 1⟩

/-- A state with VALID = 0. -/
def off (inputs : List Input) : State := stateOf false (Dense.afterReset 9#4) inputs

/-- A state that holds D. -/
def on (D : Dense) : State := stateOf true D []

/-- Vector 4.3: P 1, base 3, count 1, NIB F0, slot (0, 2), values [20, 3]. -/
def v43 : Dense := ⟨1#5, 3#8, 1#17, [15#4, 0#4], ⟨true, 0#16, 2#8⟩⟩

/-- Vector 4.2: P 1, NIB F0, count 1, slot (0, 5). -/
def v42 : Dense := ⟨1#5, 0#8, 1#17, [15#4, 0#4], ⟨true, 0#16, 5#8⟩⟩

/-- Vector 6.1, X: values [3, 30, 1, 0]. -/
def v61X : Dense := ⟨2#5, 0#8, 1#17, [3#4, 15#4, 1#4, 0#4], ⟨true, 1#16, 15#8⟩⟩

/-- Vector 6.1, Y: values [5, 0, 40, 2]. -/
def v61Y : Dense := ⟨2#5, 0#8, 1#17, [5#4, 0#4, 15#4, 2#4], ⟨true, 2#16, 25#8⟩⟩

/-- No zero delta, as LOAD_IMAGE can leave it (vector 7.2): P 1, base 3, count 0, NIB F1, slot (0, 2). -/
def v72 : Dense := ⟨1#5, 3#8, 0#17, [15#4, 1#4], ⟨true, 0#16, 2#8⟩⟩

/-- P 4, base 1, every value 1 (vector 5.2). -/
def ones : Dense := ⟨4#5, 1#8, 16#17, List.replicate 16 0#4, Slot.empty⟩

/-- The last response of a step. -/
def answer : Host.Outcome State Fault Refusal → Option (Nat × Nat × Option Image)
  | .next t => t.responses.getLast?.map fun r => (r.status.toNat, r.data.toNat, r.oimg)
  | .fault _ => none
  | .refused _ => none

/-- The representation after a step. -/
def repAfter : Host.Outcome State Fault Refusal → Option Dense
  | .next t => some t.rep
  | .fault _ => none
  | .refused _ => none

/-! ## Well-formedness and decoding -/

theorem test_wellFormed_refuses_store_without_packer : WellFormed false .storeImage = false := by decide
theorem test_wellFormed_accepts_store_with_packer : WellFormed true .storeImage = true := by decide

/-- 30_encoding.md R79: `INSERT 1, 3` = 020300010000000000000000. -/
theorem test_decode_insert : decode true ⟨0x020300010000000000000000#96, none⟩ = .ok (.insert 1#16 3#8) := rfl
theorem test_decode_nop : decode true ⟨0x000000000000000000000000#96, none⟩ = .ok .nop := rfl
theorem test_decode_init : decode true ⟨0x010400000000000000000000#96, none⟩ = .ok (.init 4#8) := rfl
theorem test_decode_insertHash :
    decode true ⟨0x030000000123456789ABCDEF#96, none⟩ = .ok (.insertHash 0x0123456789ABCDEF#64) := rfl
theorem test_decode_decodeHash :
    decode true ⟨0x040000001000000000000000#96, none⟩ = .ok (.decodeHash 0x1000000000000000#64) := rfl
theorem test_decode_cardinality : decode true ⟨0x050000000000000000000000#96, none⟩ = .ok .cardinality := rfl
theorem test_decode_mergeImage : decode true ⟨0x060000000000000000000000#96, some [5#8]⟩ = .ok (.mergeImage [5#8]) := rfl
theorem test_decode_loadImage : decode true ⟨0x070000000000000000000000#96, some []⟩ = .ok (.loadImage []) := rfl
theorem test_decode_storeImage : decode true ⟨0x080000000000000000000000#96, none⟩ = .ok .storeImage := rfl
theorem test_decode_verify : decode true ⟨0x090000000000000000000000#96, none⟩ = .ok .verify := rfl
theorem test_decode_readBucket : decode true ⟨0x0A00000E0000000000000000#96, none⟩ = .ok (.readBucket 14#16) := rfl
theorem test_decode_readCsr : decode true ⟨0x0B0300000000000000000000#96, none⟩ = .ok (.readCsr 3#8) := rfl

/-- Section 9 of the vectors, and R77, R78. -/
theorem test_decode_refuses :
    decode true ⟨0x0C0000000000000000000000#96, none⟩ = .error (.reservedOpcode 0x0C#8) ∧
    decode true ⟨0x010400000000000000000001#96, none⟩ = .error .nonzeroA64 ∧
    decode true ⟨0x020100010000000000000001#96, none⟩ = .error .nonzeroA64 ∧
    decode true ⟨0x050100000000000000000000#96, none⟩ = .error .nonzeroA8 ∧
    decode true ⟨0x010400010000000000000000#96, none⟩ = .error .nonzeroA16 ∧
    decode true ⟨0x070000000000000000000000#96, none⟩ = .error .imageMissing ∧
    decode true ⟨0x080000000000000000000000#96, some []⟩ = .error .imageNotAllowed ∧
    decode false ⟨0x080000000000000000000000#96, none⟩ = .error .packerAbsent := ⟨rfl, rfl, rfl, rfl, rfl, rfl, rfl, rfl⟩

/-- The host's words reach the decoder and the step. -/
theorem test_decodeTableWord : decodeTableWord 96 0x020300010000000000000000 = some (.insert 1#16 3#8) ∧
    decodeTableWord 96 0x070000000000000000000000 = some (.loadImage []) ∧
    decodeTableWord 96 0x0C0000000000000000000000 = none := ⟨rfl, rfl, rfl⟩
theorem test_step_from_reset_runs_word :
    answer (step (State.reset.withFetchWord 96 0x0B0800000000000000000000)) = some (0, 0x2010110, none) ∧
    answer (step (State.reset.withFetchWord 96 0x020100000000000000000000)) = some (2, 0, none) := by decide

/-- R79: the listing's digits. -/
theorem test_listing : listingDigits (encodeWord (.insert 1#16 3#8)) =
    [0#4, 2#4, 0#4, 3#4, 0#4, 0#4, 0#4, 1#4] ++ List.replicate 16 0#4 := by decide

/-! ## The commands -/

theorem test_nop : answer (exec .nop (off [])) = some (0, 0, none) := by decide
theorem test_illegal_word :
    answer (step (off [.command ⟨0x000100000000000000000000#96, none⟩])) = some (1, 0, none) := by decide
/-- Vector 4.1. -/
theorem test_init : repAfter (exec (.init 4#8) (off [])) =
    some ⟨4#5, 0#8, 16#17, List.replicate 16 0#4, Slot.empty⟩ := by decide
theorem test_init_refuses : answer (exec (.init 17#8) (off [])) = some (3, 0, none) ∧
    answer (exec (.init 0#8) (off [])) = some (3, 0, none) := by decide
/-- Vectors 4.2 and 4.3: the raise runs three passes. -/
theorem test_insert_overflow : answer (exec (.insert 0#16 20#8) (on (fresh 1))) = some (0, 0x1140000, none) ∧
    repAfter (exec (.insert 0#16 20#8) (on (fresh 1))) = some v42 := by decide
theorem test_insert_raises : answer (exec (.insert 1#16 3#8) (on v42)) = some (0, 0x1030001, none) ∧
    repAfter (exec (.insert 1#16 3#8) (on v42)) = some v43 := by decide
/-- Vector 4.4: branch 2 clears the tracking. -/
theorem test_raise_clears_slot : insertCore ⟨1#5, 0#8, 1#17, [15#4, 0#4], ⟨true, 0#16, 2#8⟩⟩ 1 5 =
    ⟨1#5, 5#8, 1#17, [12#4, 0#4], Slot.empty⟩ := by decide
/-- Vector 4.6: displacement. -/
theorem test_insert_displaces : insertCore ⟨2#5, 0#8, 3#17, [15#4, 0#4, 0#4, 0#4], ⟨true, 0#16, 5#8⟩⟩ 1 30 =
    ⟨2#5, 0#8, 2#17, [15#4, 15#4, 0#4, 0#4], ⟨true, 1#16, 15#8⟩⟩ := by decide
/-- Vector 4.7: a tie keeps the earlier slot. -/
theorem test_insert_tie : insertCore ⟨2#5, 0#8, 2#17, [15#4, 15#4, 0#4, 0#4], ⟨true, 0#16, 15#8⟩⟩ 2 30 =
    ⟨2#5, 0#8, 1#17, [15#4, 15#4, 15#4, 0#4], ⟨true, 0#16, 15#8⟩⟩ := by decide
/-- Vector 4.8. -/
theorem test_insertHash :
    answer (exec (.insertHash 0x0123456789ABCDEF#64) (on (fresh 4))) = some (0, 0x1040000, none) := by decide
theorem test_insertHash_zero : answer (exec (.insertHash 0#64) (on (fresh 4))) = some (0, 0x13D0000, none) := by decide
/-- Section 2. -/
theorem test_decodeHash : answer (exec (.decodeHash 0x0123456789ABCDEF#64) (on (fresh 4))) = some (0, 0x40000, none) ∧
    answer (exec (.decodeHash 0x1000000000000000#64) (on (fresh 4))) = some (0, 0x3D0001, none) := by decide
theorem test_decodeHash_p1 : answer (exec (.decodeHash 0x8000000000000000#64) (on (fresh 1))) =
    some (0, 0x400001, none) := by decide
/-- Vector 3.2. -/
theorem test_convertEntry : convertEntry 4 0x80000026#32 = (8, 61) ∧ convertEntry 1 0x7F#32 = (0, 25) ∧
    convertEntry 16 0x10005#32 = (1, 16) ∧ convertEntry 1 0x3F#32 = (0, 89) := by decide
/-- Vector 3.1. -/
theorem test_sparseEntry : sparseEntry 0x0123456789ABCDEF#64 = 0x01234540#32 := by decide
/-- Vector 3.3. -/
theorem test_load_sparse :
    answer (exec (.loadImage [2#8, 4#8, 0#8, 2#8, 0x01#8, 0x23#8, 0x45#8, 0x40#8, 0x80#8, 0#8, 0#8, 0x26#8]) (off [])) =
      some (0, 0x402, none) ∧
    repAfter (exec (.loadImage [2#8, 4#8, 0#8, 2#8, 0x01#8, 0x23#8, 0x45#8, 0x40#8, 0x80#8, 0#8, 0#8, 0x26#8]) (off [])) =
      some ⟨4#5, 0#8, 14#17, [4#4] ++ List.replicate 7 0#4 ++ [15#4] ++ List.replicate 7 0#4, ⟨true, 8#16, 46#8⟩⟩ := by
  decide
/-- Vector 7.2: no raise on load. -/
theorem test_load_dense : repAfter (exec (.loadImage [1#8, 1#8, 3#8, 0xF1#8, 0#8, 0#8, 2#8]) (off [])) = some v72 := by
  decide
/-- Vectors 7.3, 7.5, 3.5: the parser's statuses. -/
theorem test_parse_statuses :
    parseImage cfg [] = .error .formatCorrupt ∧ parseImage cfg [0#8, 1#8] = .error .formatRetired ∧
    parseImage cfg [3#8] = .error .formatUnknown ∧ parseImage cfg [1#8, 0x11#8, 0#8] = .error .formatCorrupt ∧
    parseImage cfg [1#8, 1#8, 0#8, 0xE0#8, 0#8, 0#8, 0#8] = .error .formatCorrupt ∧
    parseImage cfg [2#8, 0x11#8, 0#8, 0#8] = .error .unsupportedPrecision ∧
    parseImage cfg [2#8, 0x1B#8, 0#8, 0#8] = .error .formatCorrupt ∧
    parseImage cfgBare [1#8, 1#8, 0#8, 0xF0#8, 0xFF#8, 0xFF#8, 0#8] = .error .formatUnknown :=
  ⟨rfl, rfl, rfl, rfl, rfl, rfl, rfl, rfl⟩
/-- Program P1, step 6. -/
theorem test_store : answer (exec .storeImage (on v43)) =
    some (0, 7, some [1#8, 1#8, 3#8, 0xF0#8, 0#8, 0#8, 2#8]) := by decide
/-- R214: the slot on bucket 65535 is UNREPRESENTABLE. -/
theorem test_store_unrepresentable :
    answer (exec .storeImage (on ⟨16#5, 0#8, 0#17, [], ⟨true, 0xFFFF#16, 1#8⟩⟩)) = some (9, 0, none) := by decide
/-- Vector 6.1, both ways. -/
theorem test_merge : repAfter (exec (.mergeImage [1#8, 2#8, 0#8, 0x50#8, 0xF2#8, 0#8, 2#8, 0x19#8]) (on v61X)) =
    some ⟨2#5, 2#8, 1#17, [3#4, 13#4, 15#4, 0#4], ⟨true, 2#16, 23#8⟩⟩ := by decide
theorem test_merge_failures : answer (exec (.mergeImage [1#8, 1#8, 0#8, 0xF0#8, 0xFF#8, 0xFF#8, 0#8]) (on v61X)) =
      some (7, 0, none) ∧
    answer (exec (.mergeImage [1#8, 1#8, 0#8, 0xF0#8]) (on v61X)) = some (6, 0, none) := by decide
/-- Vector 5.2: E = 21.536 and 22. -/
theorem test_cardinality_harmonic : rawEstimate ones = fl 21536 1000 ∧
    answer (exec .cardinality (on ones)) = some (0, 22, none) := by decide +kernel
/-- R172: z = 15, m = 16, with the default LN. -/
theorem test_cardinality_small :
    div64 (natTo64 16) (natTo64 15) = fl 10666666666666667 10000000000000000 ∧
    lnOfConfig cfg (div64 (natTo64 16) (natTo64 15)) = fl 6453852113757116 100000000000000000 ∧
    linearCounting (lnOfConfig cfg) 15 16 = fl 10326163382011386 10000000000000000 := by decide +kernel
/-- R176's synthetic table. -/
theorem test_bias : biasCorrect [⟨fl 20 1, fl 5 1⟩, ⟨fl 22 1, fl 3 1⟩] (fl 21536 1000) =
    fl 18072000000000003 1000000000000000 := by decide +kernel
/-- Vector 5.4. -/
theorem test_rounding : roundTo64 (fl 5 2) = 3#64 ∧ roundTo64 (fl (-5) 2) = 0xFFFFFFFFFFFFFFFE#64 ∧
    roundTo64 (fl (10 ^ 300) 1) = 0x7FFFFFFFFFFFFFFF#64 ∧
    roundTo64 (fl 24999999999999996 10000000000000000) = 2#64 := by decide +kernel
theorem test_verify : answer (exec .verify (on v72)) = some (0, 0, none) := by decide
/-- R241's flags, in states no rule produces. -/
theorem test_verify_flags :
    answer (exec .verify (on ⟨1#5, 0#8, 0#17, [0#4, 3#4], ⟨true, 1#16, 0#8⟩⟩)) = some (10, 3, none) ∧
    answer (exec .verify (on ⟨1#5, 0#8, 1#17, [0#4, 3#4], ⟨true, 2#16, 0#8⟩⟩)) = some (10, 4, none) ∧
    answer (exec .verify (on ⟨1#5, 0#8, 1#17, [0#4, 3#4], ⟨false, 0#16, 1#8⟩⟩)) = some (10, 8, none) := by decide
/-- Program P1, step 4. -/
theorem test_readBucket : answer (exec (.readBucket 0#16) (on v43)) = some (0, 0x1F0014, none) ∧
    answer (exec (.readBucket 2#16) (on v43)) = some (3, 0, none) := by decide
/-- Section 8: CSR 0 to 9 in the state of 4.3. -/
theorem test_readCsr : ((List.range 10).map fun c => answer (exec (.readCsr (BitVec.ofNat 8 c)) (on v43))) =
    [some (0, 1, none), some (0, 1, none), some (0, 2, none), some (0, 3, none), some (0, 1, none),
      some (0, 0x10000, none), some (0, 2, none), some (0, 7, none), some (0, 0x2010110, none), some (3, 0, none)] := by
  decide
/-- Section 8: VALID = 0. -/
theorem test_readCsr_off : answer (exec (.readCsr 9#8) (off [])) = some (2, 0, none) ∧
    answer (exec (.readCsr 0#8) (off [])) = some (0, 0, none) := by decide
/-- R218: the bare block's STORE_IMAGE is illegal, with VALID = 1 or 0. -/
theorem test_store_without_packer :
    answer (exec .storeImage { on v43 with cfg := cfgBare }) = some (1, 0, none) ∧
    answer (exec .storeImage { off [] with cfg := cfgBare }) = some (1, 0, none) := by decide
/-- Log entry 11: the state after the second of two equal inserts differs from the state after the first. -/
theorem test_repeated_insert_changes :
    insertCore ⟨1#5, 0#8, 1#17, [15#4, 0#4], ⟨true, 0#16, 10#8⟩⟩ 1 20 = ⟨1#5, 15#8, 1#17, [10#4, 0#4], Slot.empty⟩ ∧
    insertCore ⟨1#5, 15#8, 1#17, [10#4, 0#4], Slot.empty⟩ 1 20 = ⟨1#5, 20#8, 1#17, [5#4, 0#4], Slot.empty⟩ := by decide
/-- Log entry 11: INSERT 0,25 then INSERT 1,20 leaves what INSERT 0,25 then INSERT 1,15 leaves, from which R142 and R149
give INSERT 1,20 the value 20. R20 holds nothing else that could tell the two histories apart. -/
theorem test_repeated_insert_histories :
    insertCore (insertCore (fresh 1) 0 25) 1 20 = insertCore (insertCore (fresh 1) 0 25) 1 15 ∧
    (insertCore (insertCore (insertCore (fresh 1) 0 25) 1 15) 1 20).value 1 = 20 := by decide
/-- Log entry 11, a displaced bucket: INSERT 0,20 then 1,30 displaces bucket 0 from the slot (R149, C5: value 15), and
INSERT 0,20 again is then taken. -/
theorem test_displaced_insert_again :
    (insertCore (insertCore (fresh 1) 0 20) 1 30).value 0 = 15 ∧
    (insertCore (insertCore (insertCore (fresh 1) 0 20) 1 30) 0 20).value 0 = 20 := by decide

/-! ## Witnesses: the hypotheses of each statement, met together -/

/-- A command in the queue. -/
def queued (valid : Bool) (D : Dense) (w : CmdWord) (img : Option Image) : State := stateOf valid D [.command ⟨w, img⟩]

theorem witness_EncodedInstructionDecodesBack :
    WellFormed true .storeImage = true ∧ WellFormed false (.insert 0xFFFF#16 0xFF#8) = true := by decide
theorem witness_DecodedCommandEncodesBack : decode false (encode (.readBucket 0xFFFF#16)) = .ok (.readBucket 0xFFFF#16) := rfl
theorem witness_LegalWordMatchesExactlyItsRow : decode true (encode (.init 0xFF#8)) = .ok (.init 0xFF#8) := rfl
theorem witness_ReservedOpcodesAreIllegal :
    (queued true v43 0x0C0000000000000000000000#96 none).inputs = [.command ⟨0x0C0000000000000000000000#96, none⟩] ∧
    0x0B < (opField 0x0C0000000000000000000000#96).toNat ∧ 0x0B < (opField 0xFF0000000000000000000000#96).toNat := by
  decide
theorem witness_UnusedFieldsMustBeZero :
    (opField 0x000100000000000000000000#96).toNat ≤ 0x0B ∧ a8Field 0x000100000000000000000000#96 ≠ 0#8 ∧
    (opField 0x0B0000010000000000000000#96).toNat ≤ 0x0B ∧ a16Field 0x0B0000010000000000000000#96 ≠ 0#16 ∧
    (opField 0x0A0000000000000000000001#96).toNat ≤ 0x0B ∧ a64Field 0x0A0000000000000000000001#96 ≠ 0#64 ∧
    (some ([] : Image)).isSome = (some [1#8]).isSome := by decide
theorem witness_ImagePresenceDecidesLegality :
    (opField 0x060000000000000000000000#96 = 0x06#8 ∧ (⟨0x060000000000000000000000#96, none⟩ : Command).img = none) ∧
    (opField 0x080000000000000000000000#96 ≠ 0x06#8 ∧ opField 0x080000000000000000000000#96 ≠ 0x07#8 ∧
      (⟨0x080000000000000000000000#96, some []⟩ : Command).img ≠ none) ∧
    (opField 0x080000000000000000000000#96 = 0x08#8 ∧ cfgBare.hasPacker = false) := by decide
theorem witness_StepRunsDecodedInstruction :
    decode cfg.hasPacker ⟨0x090000000000000000000000#96, none⟩ = .ok .verify ∧
    decode cfg.hasPacker ⟨0x0D0000000000000000000000#96, none⟩ = .error (.reservedOpcode 0x0D#8) ∧
    decode cfg.hasPacker (tableCommand 96 0x0B0800000000000000000000) = .ok (.readCsr 8#8) ∧
    (on v43).inputs = [] := ⟨rfl, rfl, rfl, rfl⟩
theorem witness_OneResponsePerCommand :
    (queued true v43 0x090000000000000000000000#96 none).inputs = [.command ⟨0x090000000000000000000000#96, none⟩] := rfl
theorem witness_FailedCommandChangesNothing :
    step (queued false v43 0x090000000000000000000000#96 none) = .next ((off []).update v43 |>.deliver ⟨2#4, 0#64, none⟩) ∧
    (2#4 : BitVec 4) ≠ 0#4 := ⟨rfl, by decide⟩
theorem witness_LaterInputsAndResponsesAreNotRead :
    (queued true v43 0#96 none).inputs ≠ [] ∧
    step (queued true v43 0#96 none) = .next ((on v43).deliver ⟨0#4, 0#64, none⟩) := ⟨by decide, rfl⟩
theorem witness_InvalidRepresentationIsUnobservable : (off []).valid = false := rfl
theorem witness_CommandsThatNeedValid : (off []).valid = false ∧ (off []).cfg.hasPacker = true ∧ (9#8 : BitVec 8) ≠ 0x00#8 ∧ (9#8 : BitVec 8) ≠ 0x08#8 := by
  decide
theorem witness_OnlyInitLoadAndResetWriteValid :
    step (stateOf true v43 [.reset none]) = .next (stateOf true v43 []).resetEvent ∧
    (stateOf true v43 []).resetEvent.valid ≠ (stateOf true v43 [.reset none]).valid ∧
    step (queued false v43 0x010100000000000000000000#96 none) =
      .next (((off []).update v43).hold (fresh 1) |>.deliver ⟨0#4, 0#64, none⟩) := ⟨rfl, by decide, rfl⟩
theorem witness_ReadingCommandsWriteNothing : ∃ b, Instr.readBucket 3#16 = .readBucket b := ⟨3#16, rfl⟩
theorem witness_CommandFrames : (∃ t, exec (.insert 1#16 3#8) (on v42) = .next t) ∧
    (∀ p, Instr.insert 1#16 3#8 ≠ .init p) ∧ (∀ img, Instr.insert 1#16 3#8 ≠ .loadImage img) :=
  ⟨⟨_, rfl⟩, nofun, nofun⟩
theorem witness_ResetEventResetsTheBlock :
    (stateOf true v43 [.reset (some ⟨0#96, none⟩)]).inputs = [.reset (some ⟨0#96, none⟩)] := rfl
theorem witness_EveryStepKeepsInvariant :
    (queued true v42 0x020300010000000000000000#96 none).Inv ∧
    (queued false (Dense.afterReset 9#4) 0x010100000000000000000000#96 none).Inv ∧
    ∃ t, step (queued true v42 0x020300010000000000000000#96 none) = .next t := ⟨by decide, by decide, _, rfl⟩
theorem witness_HashFrontEndCountsLeadingZeros :
    leadingZeroRun 0#64 1 = 64 - 1 ∧ leadingZeroRun 0#64 26 = 64 - 26 ∧ leadingZeroRun 0x0123456789ABCDEF#64 4 < 64 - 4 := by
  decide
theorem witness_DecodeHashAnswersBucketAndValue : (off []).valid = false ∧
    (on (fresh 1)).valid = true ∧ 1 ≤ (on (fresh 1)).rep.p.toNat ∧
    (on ⟨16#5, 0#8, 0#17, [], Slot.empty⟩).rep.p.toNat ≤ 16 := by decide
theorem witness_InitMakesFreshRepresentation :
    (1 ≤ (1#8).toNat ∧ (1#8).toNat ≤ 16) ∧ (1 ≤ (16#8).toNat ∧ (16#8).toNat ≤ 16) ∧
    (0#8).toNat < 1 ∧ 16 < (17#8).toNat := by decide
/-- No-op (v = 20 at value 20 of the nibble 15 + base 3 = 18 is a write that loses; v = 18 is the no-op), a claim of the
slot, and a write that empties the count. -/
theorem witness_InsertCoreWritesFields :
    0 < v43.nib.length ∧ 18 ≤ v43.baseline.toNat + (v43.nibAt 0).toNat ∧
    v43.baseline.toNat + (v43.nibAt 0).toNat < 20 ∧ 20 - v43.baseline.toNat ≤ 15 + v43.ovf.value.toNat ∧
    15 + v43.ovf.value.toNat < 21 - v43.baseline.toNat ∧ v43.nibAt 0 ≠ 0#4 ∧ v43.nibAt 1 = 0#4 := by decide
theorem witness_InsertUpdatesAndAnswers :
    (off []).valid = false ∧ (on v43).valid = true ∧ 2 ^ (on v43).rep.p.toNat ≤ (2#16).toNat ∧
    (1#16).toNat < 2 ^ (on v43).rep.p.toNat := by decide
theorem witness_InsertHashIsInsertOfDecodedHash :
    (on (fresh 4)).valid = true ∧ 1 ≤ (on (fresh 4)).rep.p.toNat ∧ (on (fresh 4)).rep.p.toNat ≤ 16 := by decide
/-- An excess that ties and loses (bucket 2, v = 30 at slot excess 15), one that wins and displaces (v = 31), and one
below the clamp (v = 15). -/
theorem witness_MaxUpdateValues :
    v61X.Inv ∧ 2 < v61X.m ∧ 31 ≤ 255 ∧ (v61X.baseline.toNat + 15 < 30 ∧ 30 - v61X.baseline.toNat - 15 ≤ v61X.ovf.value.toNat) ∧
    (v61X.baseline.toNat + v61X.ovf.value.toNat + 15 < 31 ∧ v61X.ovf.valid = true ∧ v61X.ovf.bucket.toNat = 1) ∧
    ¬ v61X.baseline.toNat + 15 < 15 := by decide
theorem witness_UpdateWithoutRaiseTouchesOneBucket :
    v61X.Inv ∧ 0 < v61X.m ∧ v61X.nibAt 0 ≠ 0#4 ∧ (fresh 1).Inv ∧ (fresh 1).baselineCount ≠ 1#17 := by decide
theorem witness_RaiseVisitOrderIsImmaterial :
    v72.Inv ∧ v72.baselineCount = 0#17 ∧ v72.baseline ≠ 255#8 ∧ List.Perm [1, 0] (List.range v72.m) := by decide
theorem witness_RaisePreservesValues : v72.Inv ∧ v72.baselineCount = 0#17 ∧ v72.baseline ≠ 255#8 ∧ 1 < v72.m := by decide
theorem witness_RaiseEndsOrSaturates :
    (⟨1#5, 255#8, 0#17, [15#4, 1#4], Slot.empty⟩ : Dense).Inv ∧
    (raiseBaseline ⟨1#5, 255#8, 0#17, [15#4, 1#4], Slot.empty⟩).baselineCount = 0#17 := by decide
theorem witness_RepeatedInsertWithoutRaiseIsNoOp :
    v61X.Inv ∧ 2 < v61X.m ∧ (insertCore v61X 2 30).baseline = v61X.baseline ∧ insertCore v61X 2 30 ≠ v61X := by decide
/-- A raise after which the bucket has its value, and a hash (bucket 0, value 1 at p = 1) that vector 4.3 already has. -/
theorem witness_RepeatedInsert_raised :
    v42.Inv ∧ 1 < v42.m ∧ (insertCore v42 1 3).baseline ≠ v42.baseline ∧ 3 ≤ (insertCore v42 1 3).value 1 ∧
    (on v43).valid = true ∧ (on v43).rep.Inv ∧
    registerValue 0x4000000000000000#64 1 ≤ (on v43).rep.value (bucketIndex 0x4000000000000000#64 1) := by decide
/-- Both nibbles 15, the slot on bucket 0 with excess 10: bucket 1 has value 15. -/
def lostSlot : Dense := ⟨1#5, 0#8, 0#17, [15#4, 15#4], ⟨true, 0#16, 10#8⟩⟩
/-- A hash of bucket 1 and value 19, whose excess 4 loses to the slot. -/
theorem witness_RepeatedInsert_loses :
    (on lostSlot).rep.Inv ∧ (on lostSlot).valid = true ∧
    ¬ registerValue 0x8000100000000000#64 1 ≤ (on lostSlot).rep.value (bucketIndex 0x8000100000000000#64 1) ∧
    (on lostSlot).rep.nibAt (bucketIndex 0x8000100000000000#64 1) = 15#4 ∧
    registerValue 0x8000100000000000#64 1 ≤
      (on lostSlot).rep.baseline.toNat + 15 + (on lostSlot).rep.ovf.value.toNat := by decide
/-- The exact condition at its edges: v43 has BASELINE 3 and the slot on bucket 0 with excess 2, so 20 changes nothing
and 21 does. -/
theorem witness_RepeatedInsert_edges : v43.Inv ∧ 0 < v43.m ∧ insertCore v43 0 20 = v43 ∧ insertCore v43 0 21 ≠ v43 := by
  decide
theorem witness_SomeBucketAtDeltaZero :
    v42.Inv ∧ 1 < v42.m ∧ 1 ≤ v42.baselineCount.toNat ∧ v61X.Inv ∧ v61Y.Inv ∧ v61Y.p = v61X.p := by decide
theorem witness_EntryConversion :
    entryIdx 0x3F#32 % 2 ^ (26 - 1) = 0 ∧ entryIdx 0x7F#32 % 2 ^ (26 - 1) ≠ 0 ∧ entryIdx 0xFFC5#32 % 2 ^ (26 - 16) ≠ 0 := by
  decide
theorem witness_SparseEntryEquivalence : (1 ≤ 1 ∧ 1 ≤ 16) ∧ (1 ≤ 16 ∧ 16 ≤ 16) := by decide
theorem witness_SparseParserAcceptsExactlySparseImages :
    ascending [0x40#32, 0x80000026#32] = true ∧
    parseSparse [2#8, 16#8, 0#8, 0#8] = .ok (16, []) ∧
    parseSparse [2#8, 17#8, 0#8, 0#8] = .error .unsupportedPrecision ∧
    parseSparse [2#8, 27#8, 0#8, 0#8] = .error .formatCorrupt := ⟨by decide, rfl, rfl, rfl⟩
theorem witness_StoreImageLayout_bare : ({ on v43 with cfg := cfgBare } : State).cfg.hasPacker = false := rfl
theorem witness_StoreImageLayout :
    (on v43).cfg.hasPacker = true ∧ (on v43).valid = true ∧ (on v43).rep.Inv ∧ ¬ (v43.ovf.valid = true ∧ v43.ovf.bucket = 0xFFFF#16) := by decide
/-- n zero nibbles and one 15. -/
def zerosThen15 (n : Nat) : List Nibble := List.replicate n 0#4 ++ [15#4]
theorem zerosThen15_length (n : Nat) : (zerosThen15 n).length = n + 1 := by simp [zerosThen15]
theorem zerosThen15_count (n : Nat) : zeroCount (zerosThen15 n) = n := by simp [zerosThen15, zeroCount]
theorem zerosThen15_last (n : Nat) : (zerosThen15 n).getD n 0#4 = 15#4 := by
  simp [zerosThen15, List.getD_eq_getElem?_getD]
/-- A representation of precision 16 whose slot is on bucket 65535. -/
def top : Dense := ⟨16#5, 0#8, 65535#17, zerosThen15 65535, ⟨true, 0xFFFF#16, 34#8⟩⟩
theorem witness_StoreImageLayout_unrepresentable : top.Inv ∧ top.ovf.valid = true ∧ top.ovf.bucket = 0xFFFF#16 :=
  ⟨⟨by decide, zerosThen15_length 65535, (zerosThen15_count 65535).symm, fun _ => ⟨by decide, zerosThen15_last 65535⟩,
    fun h => nomatch h⟩, rfl, rfl⟩
theorem witness_SerializeThenParse : v43.Inv ∧ unrepresentable v43 = false := by decide
theorem witness_ParseThenSerialize :
    imgByte [1#8, 1#8, 3#8, 0xF1#8, 0#8, 0#8, 2#8] 0 = cfg.tagDenseV1 ∧
    parseDense [1#8, 1#8, 3#8, 0xF1#8, 0#8, 0#8, 2#8] = .ok v72 ∧
    parseDense [1#8, 1#8, 0#8, 0xF0#8, 0#8, 2#8, 0#8] = .error .formatCorrupt := ⟨rfl, rfl, rfl⟩
theorem witness_TagDecidesTheRoute : cfg.wf = true ∧ cfgBare.wf = true ∧ cfg.hasPacker = true ∧
    cfgBare.hasPacker = false ∧ (3#8 ≠ cfg.tagSparseV1 ∧ 3#8 ≠ cfg.tagSparseV2 ∧ 3#8 ≠ cfg.tagDenseV1) := by decide
theorem witness_LoadImageCompletes : (off []).cfg.wf = true ∧ (off []).cfg.hasPacker = true ∧ v43.Inv ∧
    unrepresentable v43 = false ∧ ascending [0x01234540#32, 0x80000026#32] = true := by decide
theorem witness_ImageFailuresAreReported :
    parseImage (on v43).cfg [0#8] = .error .formatRetired ∧ (on v43).valid = true := ⟨rfl, rfl⟩
theorem witness_ImageFailuresAreReported_codes :
    (on v43).cfg.wf = true ∧ cfgBare.hasPacker = false ∧ 3#8 ≠ (on v43).cfg.tagSparseV1 ∧
    3#8 ≠ (on v43).cfg.tagSparseV2 ∧ 3#8 ≠ (on v43).cfg.tagDenseV1 ∧ ascending [0x40#32, 0x80#32] = true := by decide
theorem witness_MergeImageCompletes :
    (on v61X).cfg.wf = true ∧ (on v61X).valid = true ∧ (on v61X).cfg.hasPacker = true ∧ v61Y.Inv ∧
    unrepresentable v61Y = false ∧ v61Y.p = (on v61X).rep.p ∧ v43.Inv ∧ v43.p ≠ (on v61X).rep.p ∧
    ascending [0x40#32] = true := by decide
/-- In vector 6.1 bucket 2 keeps its value 40, bucket 1 (value 30) is clamped, buckets 0 and 3 are below the clamp. -/
theorem witness_MergeValues :
    v61X.Inv ∧ v61Y.Inv ∧ v61Y.p = v61X.p ∧
    max (v61X.value 0) (v61Y.value 0) ≤ max v61X.baseline.toNat v61Y.baseline.toNat + 15 ∧
    max v61X.baseline.toNat v61Y.baseline.toNat + 15 < max (v61X.value 1) (v61Y.value 1) ∧
    max (v61X.value 1) (v61Y.value 1) < max (v61X.value 2) (v61Y.value 2) := by decide
theorem witness_MergeIsCommutative : v61Y.p = v61X.p ∧ v61X ≠ v61Y := by decide
theorem witness_MergeWithItselfKeepsValues : v61X.Inv ∧ 3 < v61X.m := by decide
/-- A tie: 1/2 unit lies between 0 and 1 unit, and rounds to the even 0. -/
theorem witness_RoundingIsToNearestEven :
    flUnits 1 2 = .fin 0 ∧ representable 1 = true ∧ (1 : Int).natAbs < 2 * (2 ^ 2098 - 2 ^ 2044) := by decide +kernel
/-- 6 / 2 is the exact sum of 1 and 2 units, 2 * 2^1074 / 1 is 6 units over 3 units, and so on for each clause. -/
theorem witness_RoundingIsToNearestEven_operations :
    ((6 : Int) : ℚ) / (2 : Nat) = (1 : Int) + (2 : Int) ∧ ((-2 : Int) : ℚ) / (2 : Nat) = (1 : Int) - (2 : Int) ∧
    ((6 : Int) : ℚ) / ((2 ^ 1074 : Nat) : ℚ) = (2 : Int) * (3 : Int) / 2 ^ 1074 ∧
    ((2 * 2 ^ 1074 : Int) : ℚ) / (1 : Nat) = (6 : Int) / (3 : Int) * 2 ^ 1074 := by
  refine ⟨by norm_num, by norm_num, ?_, ?_⟩
  · rw [Nat.cast_pow, Nat.cast_ofNat, show ((6 : Int) : ℚ) = (2 : Int) * (3 : Int) by norm_num]
  · rw [Int.cast_mul, Int.cast_pow, Nat.cast_one, div_one, show ((6 : Int) : ℚ) / (3 : Int) = (2 : Int) by norm_num,
      Int.cast_ofNat]
/-- At m = 2: one zero bucket is the small regime (5 > 4), none is not (0 > 4 is false). -/
theorem witness_CardinalityAnswersEstimate :
    (on v42).valid = true ∧ (on v42).rep.nib.length = (on v42).rep.m ∧
    ((on v42).rep.baseline = 0#8 ∧ 2 * (on v42).rep.m < 5 * (on v42).rep.baselineCount.toNat) ∧
    ¬ ((on v72).rep.baseline = 0#8 ∧ 2 * (on v72).rep.m < 5 * (on v72).rep.baselineCount.toNat) := by decide
/-- The boundary at m = 16: 7 zero buckets are the small regime, 6 are not. -/
theorem witness_RegimeTestIsExact :
    smallRegime ⟨4#5, 0#8, 7#17, [], Slot.empty⟩ = true ∧ smallRegime ⟨4#5, 0#8, 6#17, [], Slot.empty⟩ = false := by decide
theorem witness_RawEstimateIsPositiveFinite : ones.Inv := by decide
theorem witness_AlphaConstants : (1 : Nat) ≠ 4 ∧ 1 ≠ 5 ∧ 1 ≠ 6 := by decide
/-- Below, above, at and between the points of a table of two. -/
theorem witness_BiasCorrectionByTable :
    biasTableWf [⟨.fin 20, .fin 5⟩, ⟨.fin 22, .fin 3⟩] = true ∧ biasTableWf [] = true ∧
    lt64 (.fin 19) (.fin 20) = true ∧ lt64 (.fin 22) (.fin 23) = true ∧
    lt64 (.fin 20) (.fin 21) = true ∧ lt64 (.fin 21) (.fin 22) = true := by decide +kernel
theorem witness_CardinalityAfterInitIsZero : 1 ≤ (16#8).toNat ∧ (16#8).toNat ≤ 16 := by decide
theorem witness_VerifyChecksInvariants :
    (off []).valid = false ∧ (on v72).valid = true ∧ (on v72).rep.nib.length = (on v72).rep.m ∧ (on v72).rep.Inv := by decide
theorem witness_ReadBucketAnswersValue :
    (off []).valid = false ∧ (on v43).valid = true ∧ 2 ^ (on v43).rep.p.toNat ≤ (2#16).toNat ∧
    (1#16).toNat < 2 ^ (on v43).rep.p.toNat := by decide
theorem witness_ReadCsrView : (on v43).valid = true ∧ (off []).valid = false ∧ 0x09 ≤ (0x09#8).toNat ∧
    (0x07#8 : BitVec 8) ≠ 0x08#8 := by decide

end Tests
end Sys2Proof
end

section
/-! O49, spec/00_scope.md R9: `fl` rounds to the nearest binary64 value, ties to even, and every operation on finite
values is `fl` of its exact result. A magnitude is r * 2^e with r the half-even quotient and e the last place kept.
A binary64 value is a multiple of 2^e, and among these r * 2^e is nearest, or it lies below 2^(52 + e), which is itself
a multiple of 2^e and no larger than the exact magnitude. -/

namespace Sys2Proof
namespace Machine

/-! ## The operations as one rounding of the exact result -/

/-- Stated for every exponent, so that Lean compares no numeral with 2^1074 or 2^2098. -/
theorem one_shiftLeft_eq_two_pow (n : Nat) : 1 <<< n = 2 ^ n := Nat.one_shiftLeft n

theorem unitsInOne_eq : unitsInOne = 2 ^ 1074 := one_shiftLeft_eq_two_pow 1074

theorem unitsLimit_eq : unitsLimit = 2 ^ 2098 := one_shiftLeft_eq_two_pow 2098

theorem unitsInOne_pos : 0 < unitsInOne := by
  rw [unitsInOne_eq]
  exact pow_pos Nat.two_pos 1074

@[simp] theorem unitsInOne_cast_rat : ((unitsInOne : Nat) : ℚ) = 2 ^ 1074 := by
  rw [unitsInOne_eq, Nat.cast_pow, Nat.cast_ofNat]

/-- Two fractions of one rational value round alike. -/
theorem flUnits_eq_of_rat_eq {num num' : Int} {den den' : Nat} (h : 0 < den) (h' : 0 < den')
    (e : (num : ℚ) / den = num' / den') : flUnits num' den' = flUnits num den := by
  refine flUnits_eq_of_ratio_eq h' h ?_
  rw [div_eq_div_iff (by exact_mod_cast h.ne') (by exact_mod_cast h'.ne')] at e
  exact_mod_cast e.symm

section
variable {num : Int} {den : Nat} (h : 0 < den) {a b : Int}
include h

theorem add64_fin_eq_flUnits (e : (num : ℚ) / den = a + b) : add64 (.fin a) (.fin b) = flUnits num den :=
  flUnits_eq_of_rat_eq h Nat.one_pos (by simp [e])

theorem sub64_fin_eq_flUnits (e : (num : ℚ) / den = a - b) : sub64 (.fin a) (.fin b) = flUnits num den :=
  add64_fin_eq_flUnits h (by simp [e, sub_eq_add_neg])

theorem mul64_fin_eq_flUnits (e : (num : ℚ) / den = a * b / 2 ^ 1074) :
    mul64 (.fin a) (.fin b) = flUnits num den :=
  flUnits_eq_of_rat_eq h unitsInOne_pos (by simp [e])

/-- `fl` of a quotient, with its positive divisor as a natural number. -/
theorem fl_eq_flUnits {d : Nat} (hd : 0 < d) (e : (num : ℚ) / den = a / d * 2 ^ 1074) : fl a d = flUnits num den :=
  flUnits_eq_of_rat_eq h hd (by rw [e, Int.cast_mul, Int.cast_natCast, unitsInOne_cast_rat, div_mul_eq_mul_div])

/-- The divisor's sign goes to the dividend. -/
theorem div64_fin_eq_flUnits (hb : b ≠ 0) (e : (num : ℚ) / den = a / b * 2 ^ 1074) :
    div64 (.fin a) (.fin b) = flUnits num den := by
  have habs : 0 < b.natAbs := Int.natAbs_pos.mpr hb
  rw [show div64 (.fin a) (.fin b) = fl (if b < 0 then -a else a) b.natAbs from if_neg hb]
  refine fl_eq_flUnits h habs ?_
  rw [e, Nat.cast_natAbs]
  split
  case isTrue hneg => rw [abs_of_neg hneg, Int.cast_neg, Int.cast_neg, neg_div_neg_eq]
  case isFalse hpos => rw [abs_of_nonneg (not_lt.mp hpos)]

end

/-! ## The quotient rounded half to even -/

theorem roundHalfEven_le {a d c : Nat} (h : a / d < c) : roundHalfEven a d ≤ c := by
  unfold roundHalfEven
  split_ifs <;> omega

/-- Half-way between two integers the even one is taken. -/
theorem roundHalfEven_even_of_tie {a d : Nat} (h : 0 < d)
    (tie : 2 * ((a : Int) - roundHalfEven a d * d).natAbs = d) : 2 ∣ roundHalfEven a d := by
  have ha : (a : Int) = (a / d : Nat) * d + (a % d : Nat) := by exact_mod_cast (Nat.div_add_mod' a d).symm
  have hm := Nat.mod_lt a h
  unfold roundHalfEven at tie ⊢
  split_ifs at tie ⊢ with hlow hhigh heven
  · rw [ha] at tie; omega
  · rw [ha, Nat.cast_add_one, add_one_mul] at tie; omega
  · exact Nat.dvd_of_mod_eq_zero heven
  · omega

/-- No multiple of d is nearer to a than the rounded one, and another is equally near only at a tie. -/
theorem roundHalfEven_nearest (a : Nat) {d : Nat} (h : 0 < d) {j : Int} (hj : j ≠ roundHalfEven a d) :
    ((a : Int) - roundHalfEven a d * d).natAbs ≤ ((a : Int) - j * d).natAbs ∧
    (((a : Int) - roundHalfEven a d * d).natAbs = ((a : Int) - j * d).natAbs → 2 ∣ roundHalfEven a d) := by
  obtain ⟨hlo, hhi⟩ := roundHalfEven_near a h
  have htie := roundHalfEven_even_of_tie h (a := a)
  generalize roundHalfEven a d = r at *
  have hapart : j * d + d ≤ (r * d : Nat) ∨ (r * d : Nat) + d ≤ j * (d : Int) := by
    rw [Nat.cast_mul, ← add_one_mul, ← add_one_mul]
    exact (lt_or_gt_of_ne hj).imp (Int.mul_le_mul_of_nonneg_right · (by omega))
      (Int.mul_le_mul_of_nonneg_right · (by omega))
  rw [Nat.mul_comm d r] at hlo hhi
  rw [← Nat.cast_mul] at htie ⊢
  exact ⟨by omega, fun heq => htie (by omega)⟩

/-! ## Bit lengths and the last place kept -/

theorem bitlen_le_iff (x n : Nat) : bitlen x ≤ n ↔ x < 2 ^ n := by
  unfold bitlen
  split
  case isTrue h0 => simp [h0]
  case isFalse h0 => rw [Nat.add_one_le_iff, Nat.log2_lt h0]

theorem lt_bitlen_iff (x n : Nat) : n < bitlen x ↔ 2 ^ n ≤ x := by
  rw [← not_le, bitlen_le_iff, not_lt]

/-- What rounding keeps of a / d has at most 53 bits. -/
theorem div_lt_two_pow_lastPlace (a d : Nat) : a / (d * 2 ^ lastPlace a d) < 2 ^ 53 := by
  have h : a / d < 2 ^ (53 + lastPlace a d) := by rw [← bitlen_le_iff, lastPlace]; omega
  rwa [← Nat.div_div_eq_div_mul, Nat.div_lt_iff_lt_mul (Nat.two_pow_pos _), ← pow_add]

/-- Where places are dropped, a / d has at least 53 bits before the last place kept. -/
theorem two_pow_mul_le_of_lastPlace_ne_zero {a d : Nat} (h : 0 < d) (he : lastPlace a d ≠ 0) :
    2 ^ 52 * 2 ^ lastPlace a d * d ≤ a := by
  rw [← Nat.le_div_iff_mul_le h, ← pow_add, ← lt_bitlen_iff]
  unfold lastPlace at he ⊢
  omega

theorem lastPlace_le {a d L : Nat} (h : a < d * 2 ^ (53 + L)) : lastPlace a d ≤ L := by
  have := (bitlen_le_iff (a / d) (53 + L)).mpr (Nat.div_lt_of_lt_mul h)
  unfold lastPlace
  omega

/-! ## Representable magnitudes -/

/-- A binary64 value is a multiple of 2^e, or too small for its 53 bits to reach place e. -/
theorem dvd_or_lt_of_representable {k : Int} (hk : representable k = true) (e : Nat) :
    2 ^ e ∣ k.natAbs ∨ k.natAbs < 2 ^ 52 * 2 ^ e := by
  simp only [representable, Bool.and_eq_true, decide_eq_true_eq] at hk
  obtain ⟨-, hmod⟩ := hk
  by_cases hsize : bitlen k.natAbs ≤ 52 + e
  · rw [← pow_add]; exact .inr ((bitlen_le_iff _ _).mp hsize)
  · exact .inl ((pow_dvd_pow 2 (by omega)).trans (Nat.dvd_of_mod_eq_zero hmod))

@[simp] theorem representable_neg (k : Int) : representable (-k) = representable k := by
  simp only [representable, Int.natAbs_neg]

/-- A number r * 2^e with r up to 2^53 has a 53-bit significand c, which is even when r is. At r = 2^53 the significand
is 2^52, one place higher. -/
theorem exists_significand {r : Nat} (hr : r ≤ 2 ^ 53) (e : Nat) :
    ∃ c, r * 2 ^ e = c * 2 ^ (bitlen (r * 2 ^ e) - 53) ∧ (2 ∣ r → 2 ∣ c) := by
  rcases hr.lt_or_eq with hlt | rfl
  · have hlen : bitlen (r * 2 ^ e) ≤ 53 + e := by
      rw [bitlen_le_iff, pow_add]
      exact Nat.mul_lt_mul_of_pos_right hlt (Nat.two_pow_pos e)
    refine ⟨r * 2 ^ (e - (bitlen (r * 2 ^ e) - 53)), ?_, fun h => h.mul_right _⟩
    rw [mul_assoc, ← pow_add, Nat.sub_add_cancel (by omega)]
  · have hlen : bitlen (2 ^ 53 * 2 ^ e) = 53 + e + 1 := by
      rw [← pow_add]
      exact le_antisymm ((bitlen_le_iff _ _).mpr (Nat.pow_lt_pow_succ Nat.one_lt_two)) ((lt_bitlen_iff _ _).mpr le_rfl)
    refine ⟨2 ^ 52, ?_, fun _ => by decide⟩
    rw [hlen, ← pow_add, ← pow_add]
    congr 1
    omega

theorem exists_significand_roundMagnitude (a d : Nat) :
    ∃ c, roundMagnitude a d = c * 2 ^ (bitlen (roundMagnitude a d) - 53) ∧
      (2 ∣ roundHalfEven a (d * 2 ^ lastPlace a d) → 2 ∣ c) :=
  exists_significand (roundHalfEven_le (div_lt_two_pow_lastPlace a d)) (lastPlace a d)

theorem representable_roundMagnitude {a d : Nat} (h : roundMagnitude a d < unitsLimit) :
    representable (roundMagnitude a d : Int) = true := by
  obtain ⟨c, hc, -⟩ := exists_significand_roundMagnitude a d
  simp only [representable, Bool.and_eq_true, decide_eq_true_eq, Int.natAbs_natCast]
  exact ⟨h, Nat.mod_eq_zero_of_dvd (Dvd.intro_left c hc.symm)⟩

/-- The last significand bit is 0 when the rounded quotient is even. -/
theorem roundMagnitude_significand_even {a d : Nat} (h : 2 ∣ roundHalfEven a (d * 2 ^ lastPlace a d)) :
    roundMagnitude a d / 2 ^ (bitlen (roundMagnitude a d) - 53) % 2 = 0 := by
  obtain ⟨c, hc, heven⟩ := exists_significand_roundMagnitude a d
  rw [Nat.div_eq_of_eq_mul_left (Nat.two_pow_pos _) hc]
  exact Nat.mod_eq_zero_of_dvd (heven h)

/-! ## The rounded magnitude -/

/-- The half-even quotient's nearness, among the multiples j * 2^e of the last place kept. -/
theorem roundMagnitude_nearest_multiple (a : Nat) {d : Nat} (h : 0 < d) {j : Int}
    (hne : j * 2 ^ lastPlace a d ≠ roundMagnitude a d) :
    ((a : Int) - roundMagnitude a d * d).natAbs ≤ ((a : Int) - j * 2 ^ lastPlace a d * d).natAbs ∧
    (((a : Int) - roundMagnitude a d * d).natAbs = ((a : Int) - j * 2 ^ lastPlace a d * d).natAbs →
      roundMagnitude a d / 2 ^ (bitlen (roundMagnitude a d) - 53) % 2 = 0) := by
  have hscale (i : Int) : i * 2 ^ lastPlace a d * d = i * (d * 2 ^ lastPlace a d : Nat) := by push_cast; ring
  have hmag : (roundMagnitude a d : Int) =
      (roundHalfEven a (d * 2 ^ lastPlace a d) : Int) * 2 ^ lastPlace a d := by
    rw [roundMagnitude]; push_cast; rfl
  have hj : j ≠ roundHalfEven a (d * 2 ^ lastPlace a d) := fun hj => hne (by rw [hmag, hj])
  obtain ⟨hle, heven⟩ := roundHalfEven_nearest a (Nat.mul_pos h (Nat.two_pow_pos (lastPlace a d))) hj
  rw [hmag, hscale, hscale]
  exact ⟨hle, fun heq => roundMagnitude_significand_even (heven heq)⟩

/-- A number below 2^(52 + e), where e > 0 places are dropped, is farther than the rounded magnitude. -/
theorem roundMagnitude_nearer_than_small {a d : Nat} (h : 0 < d) (he : lastPlace a d ≠ 0) {k : Int}
    (hk : k < 2 ^ 52 * 2 ^ lastPlace a d) :
    ((a : Int) - roundMagnitude a d * d).natAbs < ((a : Int) - k * d).natAbs := by
  have hbound : (2 ^ 52 * 2 ^ lastPlace a d * d : Int) ≤ a := by
    exact_mod_cast two_pow_mul_le_of_lastPlace_ne_zero h he
  have hlt : k * d < 2 ^ 52 * 2 ^ lastPlace a d * d := Int.mul_lt_mul_of_pos_right hk (by omega)
  have hle : ((a : Int) - roundMagnitude a d * d).natAbs ≤ ((a : Int) - 2 ^ 52 * 2 ^ lastPlace a d * d).natAbs := by
    by_cases heq : (2 ^ 52 * 2 ^ lastPlace a d : Int) = roundMagnitude a d
    · rw [heq]
    · exact (roundMagnitude_nearest_multiple a h heq).1
  omega

/-- No binary64 value is nearer to a / d than the rounded magnitude, and none is equally near unless the last
significand bit is 0. -/
theorem roundMagnitude_nearest (a : Nat) {d : Nat} (h : 0 < d) {k : Int} (hk : representable k = true)
    (hne : k ≠ roundMagnitude a d) :
    ((a : Int) - roundMagnitude a d * d).natAbs ≤ ((a : Int) - k * d).natAbs ∧
    (((a : Int) - roundMagnitude a d * d).natAbs = ((a : Int) - k * d).natAbs →
      roundMagnitude a d / 2 ^ (bitlen (roundMagnitude a d) - 53) % 2 = 0) := by
  by_cases hdvd : 2 ^ lastPlace a d ∣ k.natAbs
  case pos =>
    obtain ⟨j, rfl⟩ : ∃ j : Int, k = j * 2 ^ lastPlace a d :=
      exists_eq_mul_left_of_dvd (Int.natAbs_dvd_natAbs.mp (by rw [Int.natAbs_pow]; exact hdvd))
    exact roundMagnitude_nearest_multiple a h hne
  case neg =>
    have he : lastPlace a d ≠ 0 := fun he => hdvd (by rw [he, pow_zero]; exact one_dvd _)
    have hsmall : (k.natAbs : Int) < 2 ^ 52 * 2 ^ lastPlace a d := by
      exact_mod_cast (dvd_or_lt_of_representable hk _).resolve_left hdvd
    have hfar := roundMagnitude_nearer_than_small h he (Int.le_natAbs.trans_lt hsmall)
    exact ⟨hfar.le, fun heq => absurd heq hfar.ne⟩

/-- Below the midpoint of 2^M and the largest 53-bit number under it, rounding does not reach 2^M. -/
theorem roundMagnitude_lt {a d L M : Nat} (hM : M = L + 54) (h : 0 < d) (ha : a < d * (2 ^ M - 2 ^ L)) :
    roundMagnitude a d < 2 ^ M := by
  have hsize : a < d * 2 ^ M := ha.trans_le (Nat.mul_le_mul_left d (Nat.sub_le _ _))
  have hplace : d * 2 ^ lastPlace a d ≤ d * 2 ^ (L + 1) :=
    Nat.mul_le_mul_left d (Nat.pow_le_pow_right Nat.two_pos
      (lastPlace_le (by rwa [show 53 + (L + 1) = M by omega])))
  have hmag : d * roundMagnitude a d = d * 2 ^ lastPlace a d * roundHalfEven a (d * 2 ^ lastPlace a d) := by
    rw [roundMagnitude]; ring
  obtain ⟨-, hnear⟩ := roundHalfEven_near a (Nat.mul_pos h (Nat.two_pow_pos (lastPlace a d)))
  refine Nat.lt_of_mul_lt_mul_left (a := d) ?_
  rw [pow_succ, ← mul_assoc] at hplace
  rw [Nat.mul_sub] at ha
  omega

/-! ## `flUnits` -/

/-- A finite result is the rounded magnitude with the sign of the exact value. -/
theorem flUnits_eq_fin_iff (num : Int) (den : Nat) (n : Int) :
    flUnits num den = .fin n ↔ roundMagnitude num.natAbs den < unitsLimit ∧
      n = if num < 0 then -(roundMagnitude num.natAbs den : Int) else roundMagnitude num.natAbs den := by
  unfold flUnits
  split_ifs <;> simp_all [eq_comm]

theorem flUnits_finite {num : Int} {den : Nat} (h : 0 < den) (hn : num.natAbs < den * (2 ^ 2098 - 2 ^ 2044)) :
    ∃ n, flUnits num den = .fin n := by
  have hlim : roundMagnitude num.natAbs den < unitsLimit := by
    rw [unitsLimit_eq]
    exact roundMagnitude_lt (L := 2044) rfl h hn
  exact ⟨_, (flUnits_eq_fin_iff num den _).mpr ⟨hlim, rfl⟩⟩

theorem representable_of_flUnits_eq_fin {num n : Int} {den : Nat} (hf : flUnits num den = .fin n) :
    representable n = true := by
  obtain ⟨hlim, rfl⟩ := (flUnits_eq_fin_iff _ _ _).mp hf
  split
  · rw [representable_neg]; exact representable_roundMagnitude hlim
  · exact representable_roundMagnitude hlim

/-- The nearness of the magnitude, for both signs of the exact value: a negative one is mirrored. -/
theorem flUnits_nearest {num n k : Int} {den : Nat} (h : 0 < den) (hf : flUnits num den = .fin n)
    (hk : representable k = true) (hne : k ≠ n) :
    (num - n * (den : Int)).natAbs ≤ (num - k * (den : Int)).natAbs ∧
    ((num - n * (den : Int)).natAbs = (num - k * (den : Int)).natAbs →
      n.natAbs / 2 ^ (bitlen n.natAbs - 53) % 2 = 0) := by
  obtain ⟨-, hn⟩ := (flUnits_eq_fin_iff _ _ _).mp hf
  split at hn
  case isTrue hneg =>
    subst hn
    have hmirror (i : Int) : (num - i * den).natAbs = ((num.natAbs : Int) - -i * den).natAbs := by
      rw [Int.ofNat_natAbs_of_nonpos hneg.le, neg_mul, ← Int.natAbs_neg]
      congr 1
      ring
    rw [hmirror, hmirror, neg_neg, Int.natAbs_neg, Int.natAbs_natCast]
    exact roundMagnitude_nearest num.natAbs h ((representable_neg k).trans hk) fun hkn => hne (neg_eq_iff_eq_neg.mp hkn)
  case isFalse hpos =>
    subst hn
    have hnear := roundMagnitude_nearest num.natAbs h hk hne
    rwa [Int.natAbs_of_nonneg (not_lt.mp hpos)] at hnear

/-- Settles O49: the operations are `flUnits` of their exact results by cross-multiplication, and `flUnits` is nearest,
ties to even, among the multiples of the last place kept and the smaller binary64 values. -/
theorem roundingIsToNearestEven : Obligations.RoundingIsToNearestEven := by
  constructor
  · intro num den h a b
    refine ⟨add64_fin_eq_flUnits h, sub64_fin_eq_flUnits h, mul64_fin_eq_flUnits h, div64_fin_eq_flUnits h,
      fun hb e => fl_eq_flUnits h (Int.pos_iff_toNat_pos.mp hb) ?_⟩
    rw [e, ← Int.cast_natCast, Int.toNat_of_nonneg hb.le]
  · intro num den h
    exact ⟨flUnits_finite h, fun n hf =>
      ⟨representable_of_flUnits_eq_fin hf, fun k hk hne => flUnits_nearest h hf hk hne⟩⟩

end Machine
end Sys2Proof
end

section
/-! 10_state.md R28 and R29: every operation that makes or changes a representation keeps I1 to I3, and what it leaves
in BASELINE_COUNT. -/

namespace Sys2Proof
namespace Machine

/-! ## The pieces of the invariant -/

/-- I2 and I3 (R28) of a slot over a register file: recorded on a bucket with nibble 15, or all zeros. -/
def Slot.Fits (o : Slot) (nib : List Nibble) : Prop :=
  (o.valid = true → o.bucket.toNat < nib.length ∧ nib.getD o.bucket.toNat 0#4 = 15#4) ∧
  (o.valid = false → o.value = 0#8 ∧ o.bucket = 0#16)

theorem Slot.empty_fits (nib : List Nibble) : Slot.empty.Fits nib := by simp [Slot.Fits, Slot.empty]

/-- R28 with I2 and I3 said of the slot and the file alone. -/
theorem Dense.inv_iff {D : Dense} :
    D.Inv ↔ (1 ≤ D.p.toNat ∧ D.p.toNat ≤ 16) ∧ D.nib.length = D.m ∧ D.CountRight ∧ D.ovf.Fits D.nib := by
  refine and_congr_right fun _ => and_congr_right fun len => and_congr_right fun _ => ?_
  rw [Slot.Fits, len]
  rfl

theorem Dense.m_le {D : Dense} (hp : D.p.toNat ≤ 16) : D.m ≤ 2 ^ 16 := Nat.pow_le_pow_right Nat.two_pos hp

theorem Dense.Inv.length_le {D : Dense} (inv : D.Inv) : D.nib.length ≤ 2 ^ 16 := by
  obtain ⟨⟨-, hp⟩, len, -⟩ := inv
  exact len ▸ Dense.m_le hp

/-- BASELINE_COUNT is wide enough for every count of zero nibbles (R25). -/
theorem toNat_ofNat_zeroCount {nib : List Nibble} (h : nib.length ≤ 2 ^ 16) :
    (BitVec.ofNat 17 (zeroCount nib)).toNat = zeroCount nib := by
  have := zeroCount_le_length nib
  exact Nat.mod_eq_of_lt (by omega)

/-- A representation whose BASELINE_COUNT has just been counted satisfies I1. -/
theorem Dense.inv_of_counted {D : Dense} (hp : 1 ≤ D.p.toNat ∧ D.p.toNat ≤ 16) (len : D.nib.length = D.m)
    (count : D.baselineCount = BitVec.ofNat 17 (zeroCount D.nib)) (fits : D.ovf.Fits D.nib) : D.Inv := by
  refine Dense.inv_iff.mpr ⟨hp, len, ?_, fits⟩
  rw [Dense.CountRight, count, toNat_ofNat_zeroCount (len ▸ Dense.m_le hp.2)]

/-- A legal precision, read back from the field P. -/
theorem toNat_ofNat_precision {p : Nat} (h : p ≤ 16) : (BitVec.ofNat 5 p).toNat = p :=
  Nat.mod_eq_of_lt (by omega)

theorem zeroCount_set {nib : List Nibble} {b : Nat} (hb : b < nib.length) {n : Nibble} (hn : n ≠ 0#4) :
    zeroCount (nib.set b n) = zeroCount nib - if nib[b] = 0#4 then 1 else 0 := by
  simp [zeroCount, List.count_set hb, hn]

theorem zeroCount_pos_of_nibAt {D : Dense} {b : Nat} (hb : b < D.nib.length) (h0 : D.nibAt b = 0#4) :
    0 < zeroCount D.nib := by
  rw [nibAt_eq_getElem hb] at h0
  exact List.count_pos_iff.mpr (h0 ▸ List.getElem_mem hb)

/-- With BASELINE_COUNT 0 no bucket is at delta 0 (I1). -/
theorem Dense.Inv.nibAt_ne_zero {D : Dense} (inv : D.Inv) (empty : D.baselineCount = 0#17) {b : Nat} (hb : b < D.m) :
    D.nibAt b ≠ 0#4 := by
  obtain ⟨-, len, count, -⟩ := inv
  intro h0
  have none0 : zeroCount D.nib = 0 := count.symm.trans (by rw [empty]; rfl)
  exact (zeroCount_pos_of_nibAt (len.symm ▸ hb) h0).ne' none0

/-! ## A write of one bucket -/

@[simp] theorem clampDelta_mod_sixteen (delta : Nat) : clampDelta delta % 16 = min delta 15 :=
  Nat.mod_eq_of_lt (by unfold clampDelta; omega)

theorem clampDelta_eq_fifteen {delta : Nat} (h : 15 ≤ delta) : BitVec.ofNat 4 (clampDelta delta) = 15#4 :=
  BitVec.eq_of_toNat_eq (by simpa using h)

theorem clampDelta_ne_zero {delta : Nat} (h : 0 < delta) : BitVec.ofNat 4 (clampDelta delta) ≠ 0#4 := fun h0 => by
  have : min delta 15 = 0 := by rw [← clampDelta_mod_sixteen]; exact congrArg BitVec.toNat h0
  omega

theorem slotAfterDelta_cases (o : Slot) (b delta : Nat) :
    slotAfterDelta o b delta = o ∨
    (15 < delta ∧ slotAfterDelta o b delta = ⟨true, BitVec.ofNat 16 b, BitVec.ofNat 8 (delta - 15)⟩) := by
  unfold slotAfterDelta
  split
  case isTrue big => exact (claim_cases o b (delta - 15)).imp And.right fun h => ⟨big, h.2⟩
  case isFalse => exact .inl rfl

/-- The slot moves only to a bucket whose delta is clamped to nibble 15. -/
theorem slotAfterDelta_fits {o : Slot} {nib : List Nibble} (fits : o.Fits nib) {b delta : Nat}
    (hlen : nib.length ≤ 2 ^ 16) (hb : b < nib.length) (hn : nib[b] = BitVec.ofNat 4 (clampDelta delta)) :
    (slotAfterDelta o b delta).Fits nib := by
  rcases slotAfterDelta_cases o b delta with eq | ⟨big, eq⟩
  · rwa [eq]
  · have hb16 : b % 65536 = b := Nat.mod_eq_of_lt (by omega)
    simp [eq, Slot.Fits, hb16, hb, hn, clampDelta_eq_fifteen big.le]

/-- A slot keeps fitting when no nibble 15 is lost. -/
theorem fits_set {o : Slot} {nib : List Nibble} (fits : o.Fits nib) {b : Nat} {n : Nibble}
    (keeps : nib.getD b 0#4 = 15#4 → n = 15#4) : o.Fits (nib.set b n) := by
  refine ⟨fun hv => ?_, fits.2⟩
  obtain ⟨hlt, h15⟩ := fits.1 hv
  by_cases hb : b = o.bucket.toNat
  · subst hb
    simpa [hlt] using keeps h15
  · simpa [List.getD_eq_getElem?_getD, List.getElem?_set_ne hb] using And.intro hlt h15

/-- I1 through a write: the bucket leaves the zero nibbles if it was one. -/
theorem writeDelta_countRight {D : Dense} {b delta : Nat} (inv : D.Inv) (hb : b < D.m) (hd : 0 < delta) :
    (writeDelta D b delta).CountRight := by
  obtain ⟨-, len, count, -⟩ := inv
  have hb' : b < D.nib.length := len.symm ▸ hb
  rw [Dense.CountRight, writeDelta_nib, zeroCount_set hb' (clampDelta_ne_zero hd), ← nibAt_eq_getElem hb', ← count,
    writeDelta]
  split
  case isTrue h0 =>
    have hpos := zeroCount_pos_of_nibAt hb' h0
    rw [← count] at hpos
    exact BitVec.toNat_sub_of_le (BitVec.le_def.mpr hpos)
  case isFalse => rfl

theorem writeDelta_inv {D : Dense} {b delta : Nat} (inv : D.Inv) (hb : b < D.m) (hd : (D.nibAt b).toNat < delta) :
    (writeDelta D b delta).Inv := by
  obtain ⟨hp, len, -, fits⟩ := Dense.inv_iff.mp inv
  have keeps (h : D.nibAt b = 15#4) : BitVec.ofNat 4 (clampDelta delta) = 15#4 :=
    clampDelta_eq_fifteen (by rw [h] at hd; exact hd.le)
  exact Dense.inv_iff.mpr ⟨hp, by simpa using len, writeDelta_countRight inv hb (by omega),
    slotAfterDelta_fits (fits_set fits keeps) (by simpa using inv.length_le) (by simpa [len] using hb) (by simp)⟩

theorem slotAfterDelta_excessOf_le (o : Slot) {b : Nat} (hb : b < 2 ^ 16) (delta c : Nat) :
    (slotAfterDelta o b delta).excessOf c ≤ if c = b then max (o.excessOf c) (delta - 15) else o.excessOf c := by
  rcases slotAfterDelta_cases o b delta with eq | ⟨-, eq⟩
  · rw [eq]
    split <;> omega
  · have hb16 : b % 65536 = b := Nat.mod_eq_of_lt hb
    have hmod := Nat.mod_le (delta - 15) 256
    simp only [eq, Slot.excessOf, BitVec.toNat_ofNat, hb16, true_and, @eq_comm _ b c]
    split <;> omega

/-- Only a bucket with nibble 15 has an excess (I2). -/
theorem Dense.Inv.nibAt_eq_fifteen {D : Dense} (inv : D.Inv) {b : Nat} (h : 0 < D.ovf.excessOf b) :
    D.nibAt b = 15#4 := by
  obtain ⟨-, -, -, slot, -⟩ := inv
  unfold Slot.excessOf at h
  split at h
  case isTrue hb => exact hb.2 ▸ (slot hb.1).2
  case isFalse => exact absurd h (Nat.lt_irrefl 0)

/-- A write raises no value above the value written. -/
theorem writeDelta_value_le {D : Dense} (inv : D.Inv) {b delta : Nat} (hb : b < D.m) (hd : (D.nibAt b).toNat < delta)
    (c : Nat) : (writeDelta D b delta).value c ≤ max (D.value c) (D.baseline.toNat + delta) := by
  have hlen := inv.length_le
  have full := inv.nibAt_eq_fifteen (b := c)
  obtain ⟨-, len, -⟩ := inv
  have slot := slotAfterDelta_excessOf_le D.ovf (show b < 2 ^ 16 by omega) delta c
  rw [Dense.value, Dense.value, writeDelta_nibAt D delta c (len.symm ▸ hb), writeDelta_baseline, writeDelta_ovf]
  split at slot
  case isTrue hc =>
    subst hc
    have full' : 0 < D.ovf.excessOf c → (D.nibAt c).toNat = 15 := fun h => by rw [full h]; rfl
    simp only [if_true, BitVec.toNat_ofNat, Nat.reducePow, clampDelta_mod_sixteen]
    omega
  case isFalse hc =>
    rw [if_neg hc]
    omega

/-! ## The raise (42_register_update.md R146 to R148) -/

theorem absorbs_iff (o : Slot) (b : Nat) : o.absorbs b = true ↔ 0 < o.excessOf b := by
  unfold Slot.absorbs Slot.excessOf
  split <;> simp_all

theorem toNat_sub_one {w : Nat} {x : BitVec w} (h : 0 < x.toNat) (hw : 0 < w) : (x - 1#w).toNat = x.toNat - 1 := by
  have h1 : (1#w).toNat = 1 := Nat.mod_eq_of_lt (Nat.one_lt_two_pow hw.ne')
  rw [BitVec.toNat_sub_of_le (BitVec.le_def.mpr (h1.trans_le h)), h1]

theorem afterPass_excessOf (o : Slot) (b : Nat) : o.afterPass.excessOf b = o.excessOf b - 1 := by
  unfold Slot.afterPass Slot.excessOf
  split
  case isTrue hv =>
    split
    case isTrue hpos =>
      rw [toNat_sub_one hpos (by decide)]
      split <;> rfl
    case isFalse h0 =>
      rw [if_neg (by simp)]
      split <;> omega
  case isFalse hv => simp [hv]

/-- A slot with excess keeps its bucket's nibble 15 through a pass; one without is emptied. -/
theorem afterPass_fits {o : Slot} {nib : List Nibble} (fits : o.Fits nib) : o.afterPass.Fits (nibAfterPass o nib) := by
  unfold Slot.afterPass
  split
  case isTrue hv =>
    obtain ⟨hlt, h15⟩ := fits.1 hv
    split
    case isTrue hpos =>
      refine ⟨fun _ => ⟨by simpa using hlt, ?_⟩, fun h => absurd h (by simp [hv])⟩
      have hkeep : o.absorbs o.bucket.toNat = true := by simp [Slot.absorbs, hv, hpos]
      simpa [nibAfterPass, hlt, hkeep] using h15
    case isFalse h0 =>
      exact ⟨fun h => absurd h (by simp), fun _ => ⟨BitVec.eq_of_toNat_eq (by simpa using h0), rfl⟩⟩
  case isFalse hv => exact ⟨fun h => absurd h hv, fits.2⟩

theorem raisePass_inv {D : Dense} (inv : D.Inv) : (raisePass D).Inv := by
  obtain ⟨hp, len, -, fits⟩ := Dense.inv_iff.mp inv
  exact Dense.inv_of_counted hp (by simpa using len) rfl (afterPass_fits fits)

theorem raisePass_nibAt {D : Dense} {b : Nat} (hb : b < D.nib.length) :
    (raisePass D).nibAt b = if 0 < D.ovf.excessOf b then D.nibAt b else D.nibAt b - 1#4 := by
  rw [nibAt_eq_getElem (by simpa using hb), nibAt_eq_getElem hb]
  simp only [raisePass_nib, nibAfterPass_getElem, absorbs_iff]

theorem toNat_add_one_of_ne_max {x : BitVec 8} (h : x ≠ 255#8) : (x + 1#8).toNat = x.toNat + 1 := by
  bv_omega

/-- R148: a pass keeps every value. -/
theorem raisePass_value {D : Dense} (inv : D.Inv) (empty : D.baselineCount = 0#17) (low : D.baseline ≠ 255#8) {b : Nat}
    (hb : b < D.m) : (raisePass D).value b = D.value b := by
  have hn : 0 < (D.nibAt b).toNat := BitVec.toNat_pos_of_ne_zero (inv.nibAt_ne_zero empty hb)
  obtain ⟨-, len, -⟩ := inv
  rw [Dense.value, Dense.value, raisePass_nibAt (len.symm ▸ hb), raisePass_baseline, raisePass_ovf, afterPass_excessOf,
    toNat_add_one_of_ne_max low]
  split
  case isTrue => omega
  case isFalse =>
    rw [toNat_sub_one hn (by decide)]
    omega

theorem raiseBaseline_inv {D : Dense} (inv : D.Inv) : (raiseBaseline D).Inv :=
  raiseBaseline_induct (motive := Dense.Inv) D inv fun _ h _ _ => raisePass_inv h

/-- R148: the raise keeps every value. -/
theorem raiseBaseline_value {D : Dense} (inv : D.Inv) {b : Nat} (hb : b < D.m) :
    (raiseBaseline D).value b = D.value b :=
  (raiseBaseline_induct (motive := fun E => E.Inv ∧ E.m = D.m ∧ E.value b = D.value b) D ⟨inv, rfl, rfl⟩
    fun _ ⟨invE, hm, hv⟩ empty low =>
      ⟨raisePass_inv invE, hm, (raisePass_value invE empty low (hm.symm ▸ hb)).trans hv⟩).2.2

/-- R147: the loop ends with a bucket at delta 0 or at BASELINE 255. -/
theorem raiseLoop_ends (n : Nat) : ∀ D : Dense, n + D.baseline.toNat = 255 →
    (raiseLoop n D).baselineCount ≠ 0#17 ∨ (raiseLoop n D).baseline = 255#8 := by
  induction n with
  | zero => exact fun D h => .inr (BitVec.eq_of_toNat_eq (by simpa [raiseLoop] using h))
  | succ n ih =>
    intro D h
    unfold raiseLoop
    split
    case isTrue =>
      have low : D.baseline ≠ 255#8 := by bv_omega
      exact ih _ (by rw [raisePass_baseline, toNat_add_one_of_ne_max low]; omega)
    case isFalse some0 => exact .inl some0

theorem raiseBaseline_ends (D : Dense) :
    1 ≤ (raiseBaseline D).baselineCount.toNat ∨ (raiseBaseline D).baseline = 255#8 := by
  have := D.baseline.isLt
  exact (raiseLoop_ends _ D (by omega)).imp_left BitVec.toNat_pos_of_ne_zero

/-! ## The max-update (R142) -/

theorem insertCore_inv {D : Dense} (inv : D.Inv) {b : Nat} (hb : b < D.m) (v : Nat) : (insertCore D b v).Inv := by
  rcases insertCore_cases D b v with ⟨_, eq⟩ | ⟨hv, _, eq⟩ | ⟨hv, _, eq⟩ <;> rw [eq]
  · exact inv
  · exact writeDelta_inv inv hb (by omega)
  · exact raiseBaseline_inv (writeDelta_inv inv hb (by omega))

theorem insertCore_value_le {D : Dense} (inv : D.Inv) {b : Nat} (hb : b < D.m) (v : Nat) {c : Nat} (hc : c < D.m) :
    (insertCore D b v).value c ≤ max (D.value c) v := by
  have write (hv : D.baseline.toNat + (D.nibAt b).toNat < v) :
      (writeDelta D b (v - D.baseline.toNat)).value c ≤ max (D.value c) v := by
    have := writeDelta_value_le inv hb (show (D.nibAt b).toNat < v - D.baseline.toNat by omega) c
    rwa [Nat.add_sub_cancel' (by omega)] at this
  rcases insertCore_cases D b v with ⟨_, eq⟩ | ⟨hv, _, eq⟩ | ⟨hv, _, eq⟩ <;> rw [eq]
  · exact le_max_left _ _
  · exact write hv
  · rw [raiseBaseline_value (writeDelta_inv inv hb (by omega)) hc]
    exact write hv

/-- R29 for an insert: only a write that takes the last zero nibble can leave none, and then the raise runs. -/
theorem insertCore_ends {D : Dense} (some0 : 1 ≤ D.baselineCount.toNat) (b v : Nat) :
    1 ≤ (insertCore D b v).baselineCount.toNat ∨ (insertCore D b v).baseline = 255#8 := by
  rcases insertCore_cases D b v with ⟨_, eq⟩ | ⟨_, stays, eq⟩ | ⟨_, _, eq⟩ <;> rw [eq]
  · exact .inl some0
  · left
    by_cases h0 : D.nibAt b = 0#4
    · exact BitVec.toNat_pos_of_ne_zero fun h => stays ⟨h0, h⟩
    · rwa [writeDelta, if_neg h0]
  · exact raiseBaseline_ends _

/-! ## INIT and the sparse converter (R140, R124) -/

theorem fresh_inv {p : Nat} (hp : 1 ≤ p ∧ p ≤ 16) : (fresh p).Inv :=
  Dense.inv_of_counted (by rwa [fresh_p, toNat_ofNat_precision hp.2])
    (by rw [Dense.m, fresh_p, toNat_ofNat_precision hp.2, fresh_nib, List.length_replicate])
    (by simp [zeroCount]) (Slot.empty_fits _)

theorem fresh_m {p : Nat} (hp : p ≤ 16) : (fresh p).m = 2 ^ p := by rw [Dense.m, fresh_p, toNat_ofNat_precision hp]

theorem fresh_baselineCount_pos {p : Nat} (hp : p ≤ 16) : 1 ≤ (fresh p).baselineCount.toNat := by
  have : 2 ^ p < 2 ^ 17 := Nat.pow_lt_pow_right Nat.one_lt_two (by omega)
  rw [fresh_baselineCount, BitVec.toNat_ofNat, Nat.mod_eq_of_lt this]
  exact Nat.one_le_two_pow

theorem entryBucket_lt {p : Nat} (hp : p ≤ 26) (e : SparseEntry) : entryBucket p e < 2 ^ p := by
  have : entryIdx e < 2 ^ 26 := BitVec.isLt _
  rw [entryBucket, Nat.shiftRight_eq_div_pow, Nat.div_lt_iff_lt_mul (Nat.two_pow_pos _), ← pow_add]
  rwa [Nat.add_sub_cancel' hp]

/-- R123: V has 6 bits, so a value is at most 26 + 63. -/
theorem entryValue_lt {p : Nat} (hp : 1 ≤ p) (e : SparseEntry) : entryValue p e < 255 := by
  have : entryV e < 2 ^ 6 := BitVec.isLt _
  unfold entryValue entryZeros
  split <;> omega

/-- What holds of every representation on the way of a sparse conversion: R28, and R29 without saturation, because no
value reaches 255. -/
structure Dense.Converting (p : Nat) (D : Dense) : Prop where
  inv : D.Inv
  m : D.m = 2 ^ p
  some0 : 1 ≤ D.baselineCount.toNat
  low : ∀ c, c < D.m → D.value c < 255

theorem fresh_converting {p : Nat} (hp : 1 ≤ p ∧ p ≤ 16) : (fresh p).Converting p where
  inv := fresh_inv hp
  m := fresh_m hp.2
  some0 := fresh_baselineCount_pos hp.2
  low c hc := by
    have hc' : c < 2 ^ p := fresh_m hp.2 ▸ hc
    simp [Dense.value, Dense.nibAt, Slot.excessOf, Slot.empty, hc']

theorem insertCore_converting {p : Nat} {D : Dense} (h : D.Converting p) {b v : Nat} (hb : b < 2 ^ p) (hv : v < 255) :
    (insertCore D b v).Converting p := by
  have hm : (insertCore D b v).m = D.m := by rw [Dense.m, insertCore_p]; rfl
  have hb' : b < D.m := h.m ▸ hb
  have low (c : Nat) (hc : c < (insertCore D b v).m) : (insertCore D b v).value c < 255 :=
    (insertCore_value_le h.inv hb' v (hm ▸ hc)).trans_lt (max_lt (h.low c (hm ▸ hc)) hv)
  refine ⟨insertCore_inv h.inv hb' v, hm.trans h.m, ?_, low⟩
  refine (insertCore_ends h.some0 b v).resolve_right fun saturated => ?_
  have := low 0 (hm ▸ Nat.two_pow_pos _)
  rw [Dense.value, saturated, show (255#8).toNat = 255 from rfl] at this
  omega

theorem toDense_converting {p : Nat} (hp : 1 ≤ p ∧ p ≤ 16) (es : List SparseEntry) : (toDense p es).Converting p :=
  List.foldlRecOn es _ (fresh_converting hp) fun _ h e _ =>
    insertCore_converting h (entryBucket_lt (by omega) e) (entryValue_lt hp.1 e)

/-! ## Images (45_image_packer.md R215, R216) -/

theorem imageDense_inv {p : Nat} {img : Image} {o : Slot} (hp : 1 ≤ p ∧ p ≤ 16) (hl : img.length = denseImageSize p)
    (fits : o.Fits (imageNib p img)) : (imageDense p img o).Inv :=
  Dense.inv_of_counted (by rwa [imageDense, toNat_ofNat_precision hp.2])
    (by rw [Dense.m, imageDense, toNat_ofNat_precision hp.2, imageNib_length hp.1 hl]) rfl fits

theorem parseDense_inv {img : Image} {D : Dense} (h : parseDense img = .ok D) : D.Inv := by
  obtain ⟨p, -, hp, hl, ⟨-, -, rfl⟩ | ⟨-, hu, h15, rfl⟩⟩ := parseDense_ok h
  · exact imageDense_inv hp hl (Slot.empty_fits _)
  · exact imageDense_inv hp hl ⟨fun _ => ⟨(imageNib_length hp.1 hl).symm ▸ hu, h15⟩, fun h => absurd h (by simp)⟩

theorem parseImage_inv {cfg : HwConfig} {img : Image} {D : Dense} (h : parseImage cfg img = .ok D) : D.Inv := by
  obtain ⟨-, ⟨p, es, -, hs, rfl⟩ | ⟨-, -, hd⟩⟩ := parseImage_ok h
  · obtain ⟨-, hp, -⟩ := parseSparse_ok hs
    exact (toDense_converting hp es).inv
  · exact parseDense_inv hd

/-! ## Merge (44_merge.md R192) -/

theorem rebuiltSlot_fits (base : Nat) {V : List Nat} (hlen : V.length ≤ 2 ^ 16) :
    (rebuiltSlot base V).Fits (rebuiltNib base V) := by
  refine List.foldlRecOn (motive := (Slot.Fits · (rebuiltNib base V))) V.zipIdx _ (Slot.empty_fits _)
    fun o fits x hx => ?_
  obtain ⟨hlt, hval⟩ := List.mem_zipIdx' hx
  exact slotAfterDelta_fits fits (by simpa [rebuiltNib] using hlen) (by simpa [rebuiltNib] using hlt)
    (by simp [rebuiltNib, hval])

theorem mergeCore_inv {S O : Dense} (invS : S.Inv) (invO : O.Inv) (hp : O.p = S.p) : (mergeCore S O).Inv := by
  have hlen := invS.length_le
  obtain ⟨bounds, lenS, -⟩ := invS
  obtain ⟨-, lenO, -⟩ := invO
  have hV : (mergedValues S O).length = S.nib.length := by
    simp [mergedValues, lenS, lenO, Dense.m, hp]
  exact raiseBaseline_inv (Dense.inv_of_counted bounds (by simpa [rebuild, rebuiltNib, hV, Dense.m] using lenS) rfl
    (rebuiltSlot_fits _ (hV ▸ hlen)))

/-- Settles O35: only the raise can end with BASELINE_COUNT 0, and it does so at BASELINE 255, which no sparse entry's
value reaches. -/
theorem someBucketAtDeltaZero : Obligations.SomeBucketAtDeltaZero :=
  ⟨fun _ _ hp => fresh_baselineCount_pos hp, fun _ b v _ _ _ some0 => insertCore_ends some0 b v,
    fun _ es h1 h16 => (toDense_converting ⟨h1, h16⟩ es).some0, fun _ _ _ _ _ => raiseBaseline_ends _⟩

end Machine
end Sys2Proof
end

section
/-! 10_state.md R21, R22: everything a command and a step can do, said once, and the frames derived from it. -/

namespace Sys2Proof
namespace Machine

/-! ## Responses -/

theorem status_code_le (st : Status) : st.code.toNat ≤ 10 := by cases st <;> decide

theorem okResponse_good (d : Data) (img : Option Image) : (okResponse d img).Good :=
  ⟨status_code_le .ok, fun h => absurd rfl h, fun h => absurd rfl h⟩

theorem okResponse_status_ne (d : Data) (img : Option Image) : (okResponse d img).status ≠ 10#4 := by
  simp [okResponse, Status.code]

theorem status_code_eq_ten_iff (st : Status) : st.code = 10#4 ↔ st = .invariantViolation := by cases st <;> decide

theorem failResponse_good (st : Status) : (failResponse st 0#64).Good :=
  ⟨status_code_le st, fun _ => rfl, fun _ _ => rfl⟩

theorem invariantViolation_good (d : Data) : (failResponse .invariantViolation d).Good :=
  ⟨status_code_le _, fun _ => rfl, fun _ h => absurd rfl h⟩

/-- A response in the form of R73 that reports no violation, unless the representation has one (46_control.md R241). -/
def Response.Answers (r : Response) (s : State) : Prop :=
  r.Good ∧ (r.status = 10#4 → s.valid = true ∧ verifyFlags s.rep ≠ 0#64)

theorem okResponse_answers (d : Data) (img : Option Image) (s : State) : (okResponse d img).Answers s :=
  ⟨okResponse_good d img, fun h => absurd h (okResponse_status_ne d img)⟩

theorem failResponse_answers {st : Status} (h : st ≠ .invariantViolation) (s : State) :
    (failResponse st 0#64).Answers s :=
  ⟨failResponse_good st, fun h10 => absurd ((status_code_eq_ten_iff st).mp h10) h⟩

/-! ## The parsers never report a violation -/

theorem parseDenseBody_error {p : Nat} {img : Image} {st : Status} (h : parseDenseBody p img = .error st) :
    st = .formatCorrupt := by
  unfold parseDenseBody at h
  split_ifs at h <;> simpa using h.symm

theorem parseDense_error {img : Image} {st : Status} (h : parseDense img = .error st) : st = .formatCorrupt := by
  unfold parseDense at h
  split_ifs at h
  case neg => exact parseDenseBody_error h
  all_goals simpa using h.symm

theorem parseSparse_error {img : Image} {st : Status} (h : parseSparse img = .error st) :
    st = .formatCorrupt ∨ st = .unsupportedPrecision := by
  unfold parseSparse at h
  split_ifs at h <;> simp_all

theorem convertSparse_error {img : Image} {st : Status} (h : convertSparse img = .error st) :
    st = .formatCorrupt ∨ st = .unsupportedPrecision := by
  unfold convertSparse at h
  split at h
  case h_1 hs =>
    cases h
    exact parseSparse_error hs
  case h_2 => cases h

theorem parseImage_error {cfg : HwConfig} {img : Image} {st : Status} (h : parseImage cfg img = .error st) :
    st ≠ .invariantViolation := by
  unfold parseImage at h
  split_ifs at h with short retired sparse dense
  · cases h; decide
  · cases h; decide
  · rcases convertSparse_error h with rfl | rfl <;> decide
  · obtain rfl := parseDense_error h; decide
  · cases h; decide

/-! ## What a command can do -/

/-- Everything a command can do to the state s. -/
inductive Effect (s : State) : Instr → State → Prop where
  /-- only a response -/
  | answer {i : Instr} {r : Response} (h : r.Answers s) : Effect s i (s.deliver r)
  /-- INIT brings up the fresh representation -/
  | init {p : BitVec 8} (hp : 1 ≤ p.toNat ∧ p.toNat ≤ 16) (d : Data) :
    Effect s (.init p) ((s.hold (fresh p.toNat)).deliver (okResponse d none))
  /-- LOAD_IMAGE brings up the image's representation -/
  | load {img : Image} {D : Dense} (parses : parseImage s.cfg img = .ok D) (d : Data) :
    Effect s (.loadImage img) ((s.hold D).deliver (okResponse d none))
  /-- INSERT makes one max-update -/
  | insert {b : BitVec 16} {v : BitVec 8} (valid : s.valid = true) (hb : b.toNat < s.rep.m) (d : Data) :
    Effect s (.insert b v) ((s.update (insertCore s.rep b.toNat v.toNat)).deliver (okResponse d none))
  /-- INSERT_HASH makes the max-update of the hash front end's pair -/
  | insertHash {h : Hash} (valid : s.valid = true) (d : Data) :
    Effect s (.insertHash h)
      ((s.update (insertCore s.rep (bucketIndex h s.rep.p.toNat) (registerValue h s.rep.p.toNat))).deliver
        (okResponse d none))
  /-- MERGE_IMAGE merges the image's representation -/
  | merge {img : Image} {O : Dense} (valid : s.valid = true) (parses : parseImage s.cfg img = .ok O)
      (hp : O.p = s.rep.p) (d : Data) :
    Effect s (.mergeImage img) ((s.update (mergeCore s.rep O)).deliver (okResponse d none))

/-- The outcome o of the instruction i in the state s is a next state with one of its effects. -/
def Yields (s : State) (i : Instr) (o : Host.Outcome State Fault Refusal) : Prop := ∃ t, o = .next t ∧ Effect s i t

section
variable {s : State} {i : Instr}

theorem respond_yields (d : Data) (img : Option Image) : Yields s i (respond d img s) :=
  ⟨_, rfl, .answer (okResponse_answers d img s)⟩

theorem fail_yields {st : Status} (h : st ≠ .invariantViolation) : Yields s i (fail st s) :=
  ⟨_, rfl, .answer (failResponse_answers h s)⟩

theorem requireValid_yields {k : Host.Outcome State Fault Refusal} (h : s.valid = true → Yields s i k) :
    Yields s i (requireValid s k) := by
  unfold requireValid
  split
  · exact h ‹_›
  · exact fail_yields (by decide)

end

theorem execMergeImage_yields (img : Image) (s : State) : Yields s (.mergeImage img) (execMergeImage img s) := by
  refine requireValid_yields fun valid => ?_
  split
  case h_1 st parses => exact fail_yields (parseImage_error parses)
  case h_2 O parses =>
    split
    case isTrue hp => exact ⟨_, rfl, .merge valid parses hp _⟩
    case isFalse => exact fail_yields (by decide)

theorem execLoadImage_yields (img : Image) (s : State) : Yields s (.loadImage img) (execLoadImage img s) := by
  unfold execLoadImage
  split
  case h_1 st parses => exact fail_yields (parseImage_error parses)
  case h_2 D parses => exact ⟨_, rfl, .load parses _⟩

theorem execVerify_yields (s : State) : Yields s .verify (execVerify s) := by
  refine requireValid_yields fun valid => ?_
  split
  case isTrue broken => exact ⟨_, rfl, .answer ⟨invariantViolation_good _, fun _ => ⟨valid, broken⟩⟩⟩
  case isFalse => exact respond_yields _ _

theorem execStoreImage_yields (s : State) : Yields s .storeImage (execStoreImage s) := by
  unfold execStoreImage requirePacker
  split
  · refine requireValid_yields fun _ => ?_
    split
    · exact fail_yields (by decide)
    · exact respond_yields _ _
  · exact fail_yields (by decide)

theorem execReadCsr_yields (csr : BitVec 8) (s : State) : Yields s (.readCsr csr) (execReadCsr csr s) := by
  unfold execReadCsr
  split
  · exact respond_yields _ _
  · split
    · exact respond_yields _ _
    · refine requireValid_yields fun _ => ?_
      split
      · exact respond_yields _ _
      · exact fail_yields (by decide)

/-- Every instruction ends in a next state, by one of the effects. -/
theorem exec_yields (i : Instr) (s : State) : Yields s i (exec i s) := by
  cases i with
  | nop => exact respond_yields _ _
  | init p =>
    show Yields s (.init p) (execInit p s)
    unfold execInit
    split
    · exact ⟨_, rfl, .init (densePrecision_bounds ‹_›) _⟩
    · exact fail_yields (by decide)
  | insert b v =>
    refine requireValid_yields fun valid => ?_
    split
    · exact ⟨_, rfl, .insert valid (by simpa [legalBucket] using ‹legalBucket _ _ = true›) _⟩
    · exact fail_yields (by decide)
  | insertHash h => exact requireValid_yields fun valid => ⟨_, rfl, .insertHash valid _⟩
  | decodeHash h => exact requireValid_yields fun _ => respond_yields _ _
  | cardinality => exact requireValid_yields fun _ => respond_yields _ _
  | mergeImage img => exact execMergeImage_yields img s
  | loadImage img => exact execLoadImage_yields img s
  | storeImage => exact execStoreImage_yields s
  | verify => exact execVerify_yields s
  | readBucket b =>
    refine requireValid_yields fun _ => ?_
    split
    · exact respond_yields _ _
    · exact fail_yields (by decide)
  | readCsr csr => exact execReadCsr_yields csr s

theorem effect_of_exec {i : Instr} {s t : State} (h : exec i s = .next t) : Effect s i t := by
  obtain ⟨t', eq, effect⟩ := exec_yields i s
  rw [h] at eq
  cases eq
  exact effect

/-! ## What a step can do -/

theorem step_of_nil {s : State} (h : s.inputs = []) : step s = .next s := by simp [step, takeInput_nil h]

theorem step_of_command {s : State} {c : Command} {rest : List Input} (h : s.inputs = .command c :: rest) :
    step s = runCommand c { s with inputs := rest } := by simp [step, takeInput_cons h]

theorem step_of_reset {s : State} {c : Option Command} {rest : List Input} (h : s.inputs = .reset c :: rest) :
    step s = .next ({ s with inputs := rest } : State).resetEvent := by simp [step, takeInput_cons h]

/-- Everything a step can do to the state s. -/
inductive StepEffect (s : State) : State → Prop where
  /-- with no input, nothing -/
  | idle (hin : s.inputs = []) : StepEffect s s
  /-- a command that does not decode only gets its response -/
  | answer {c : Command} {rest : List Input} (hin : s.inputs = .command c :: rest) {r : Response} (h : r.Answers s) :
    StepEffect s (({ s with inputs := rest } : State).deliver r)
  /-- any other command has an effect of its instruction -/
  | command {c : Command} {rest : List Input} (hin : s.inputs = .command c :: rest) {i : Instr}
    (hi : decode s.cfg.hasPacker c = .ok i) {t : State} (effect : Effect { s with inputs := rest } i t) : StepEffect s t
  /-- the reset event -/
  | reset {c : Option Command} {rest : List Input} (hin : s.inputs = .reset c :: rest) :
    StepEffect s ({ s with inputs := rest } : State).resetEvent

theorem step_yields (s : State) : ∃ t, step s = .next t ∧ StepEffect s t := by
  match hin : s.inputs with
  | [] => exact ⟨s, step_of_nil hin, .idle hin⟩
  | .reset c :: rest => exact ⟨_, step_of_reset hin, .reset hin⟩
  | .command c :: rest =>
    rw [step_of_command hin]
    unfold runCommand
    split
    case h_1 i hi =>
      obtain ⟨t, eq, effect⟩ := exec_yields i { s with inputs := rest }
      exact ⟨t, eq, .command hin hi effect⟩
    case h_2 => exact ⟨_, rfl, .answer hin (failResponse_answers (by decide) s)⟩

theorem stepEffect_of_step {s t : State} (h : step s = .next t) : StepEffect s t := by
  obtain ⟨t', eq, effect⟩ := step_yields s
  rw [h] at eq
  cases eq
  exact effect

/-! ## Frames (R21, R22) -/

theorem effect_frame {s t : State} {i : Instr} (h : Effect s i t) :
    t.cfg = s.cfg ∧ t.inputs = s.inputs ∧ t.freeIndex = s.freeIndex ∧ ∃ r, t.responses = s.responses ++ [r] := by
  cases h <;> exact ⟨rfl, rfl, rfl, _, rfl⟩

@[simp] theorem mergeCore_p (S O : Dense) : (mergeCore S O).p = S.p := by simp [mergeCore, rebuild]

/-- VALID and P stay, but for INIT and LOAD_IMAGE, which set VALID. -/
theorem effect_valid_p {s t : State} {i : Instr} (h : Effect s i t) :
    (t.valid = s.valid ∧ t.rep.p = s.rep.p) ∨
    (t.valid = true ∧ ((∃ p, i = .init p) ∨ ∃ img, i = .loadImage img)) := by
  cases h with
  | answer => exact .inl ⟨rfl, rfl⟩
  | init => exact .inr ⟨rfl, .inl ⟨_, rfl⟩⟩
  | load => exact .inr ⟨rfl, .inr ⟨_, rfl⟩⟩
  | insert => exact .inl ⟨rfl, insertCore_p _ _ _⟩
  | insertHash => exact .inl ⟨rfl, insertCore_p _ _ _⟩
  | merge => exact .inl ⟨rfl, mergeCore_p _ _⟩

/-- Settles O17, from the effects of the instructions. -/
theorem commandFrames : Obligations.CommandFrames := by
  intro s t i h
  have effect := effect_of_exec h
  refine ⟨effect_frame effect, fun notInit notLoad => (effect_valid_p effect).resolve_right ?_⟩
  rintro ⟨-, ⟨p, hp⟩ | ⟨img, himg⟩⟩
  · exact notInit p hp
  · exact notLoad img himg

/-- Settles O15: of all a step can do, only INIT and LOAD_IMAGE set VALID, and only the reset event clears it. -/
theorem onlyInitLoadAndResetWriteValid : Obligations.OnlyInitLoadAndResetWriteValid := by
  intro s t h changes
  cases stepEffect_of_step h with
  | idle => exact absurd rfl changes
  | answer => exact absurd rfl changes
  | reset hin => exact .inr ⟨rfl, _, _, hin⟩
  | command hin hi effect =>
    rcases effect_valid_p effect with ⟨same, -⟩ | ⟨valid, ⟨p, rfl⟩ | ⟨img, rfl⟩⟩
    · exact absurd same changes
    · exact .inl ⟨valid, _, _, hin, .inl ⟨p, hi⟩⟩
    · exact .inl ⟨valid, _, _, hin, .inr ⟨img, hi⟩⟩

end Machine
end Sys2Proof
end

section
/-! 10_state.md R28, R44: the invariant of the machine, at reset and through every step. -/

namespace Sys2Proof
namespace Machine

/-! ## What the invariant gives, and what keeps it -/

theorem afterReset_controlReset (n : Nibble) : (Dense.afterReset n).ControlReset := ⟨rfl, rfl, rfl, rfl, rfl⟩

theorem verifyFlags_eq_zero {D : Dense} (inv : D.Inv) : verifyFlags D = 0#64 := by
  obtain ⟨-, -, count, slot, empty⟩ := inv
  have h0 : countWrong D = false := by simpa [countWrong] using count
  have h1 : slotNibbleWrong D = false := by
    simpa [slotNibbleWrong] using fun hv _ => (slot hv).2
  have h2 : slotRangeWrong D = false := by simpa [slotRangeWrong] using fun hv => (slot hv).1
  have h3 : emptySlotWrong D = false := by simpa [emptySlotWrong] using empty
  rw [verifyFlags, h0, h1, h2, h3]
  rfl

theorem bucketIndex_lt {h : Hash} {bits : Nat} (hbits : bits ≤ 64) : bucketIndex h bits < 2 ^ bits := by
  rw [bucketIndex, BitVec.toNat_ushiftRight, Nat.shiftRight_eq_div_pow, Nat.div_lt_iff_lt_mul (Nat.two_pow_pos _),
    ← pow_add, Nat.add_sub_cancel' hbits]
  exact h.isLt

theorem insertHash_inv {D : Dense} (inv : D.Inv) (h : Hash) :
    (insertCore D (bucketIndex h D.p.toNat) (registerValue h D.p.toNat)).Inv :=
  insertCore_inv inv (bucketIndex_lt (by obtain ⟨⟨-, hp⟩, -⟩ := inv; omega)) _

section
variable {s : State} (inv : s.Inv)
include inv

theorem State.Inv.deliver {r : Response} (h : r.Answers s) : (s.deliver r).Inv := by
  obtain ⟨cfg, on, off, responses⟩ := inv
  refine ⟨cfg, on, off, fun r' hr' => ?_⟩
  rcases List.mem_append.mp hr' with old | new
  · exact responses r' old
  · obtain rfl := List.mem_singleton.mp new
    exact ⟨h.1, fun violation => (h.2 violation).2 (verifyFlags_eq_zero (on (h.2 violation).1))⟩

theorem State.Inv.hold {D : Dense} (invD : D.Inv) : (s.hold D).Inv := by
  obtain ⟨cfg, -, -, responses⟩ := inv
  exact ⟨cfg, fun _ => invD, fun h => absurd h (by simp), responses⟩

theorem State.Inv.update {D : Dense} (valid : s.valid = true) (invD : D.Inv) : (s.update D).Inv := by
  obtain ⟨cfg, -, -, responses⟩ := inv
  exact ⟨cfg, fun _ => invD, fun h => absurd h (by simp [valid]), responses⟩

theorem State.Inv.resetEvent : s.resetEvent.Inv := by
  obtain ⟨cfg, -, -, responses⟩ := inv
  exact ⟨cfg, fun h => absurd h (by simp), fun _ => afterReset_controlReset _, responses⟩

theorem effect_inv {t : State} {i : Instr} (h : Effect s i t) : t.Inv := by
  have ok (d : Data) {s' : State} : (okResponse d none).Answers s' := okResponse_answers d none s'
  have ⟨_, on, _⟩ := inv
  cases h with
  | answer h => exact inv.deliver h
  | init hp d => exact (inv.hold (fresh_inv hp)).deliver (ok d)
  | load parses d => exact (inv.hold (parseImage_inv parses)).deliver (ok d)
  | insert valid hb d => exact (inv.update valid (insertCore_inv (on valid) hb _)).deliver (ok d)
  | insertHash valid d => exact (inv.update valid (insertHash_inv (on valid) _)).deliver (ok d)
  | merge valid parses hp d =>
    exact (inv.update valid (mergeCore_inv (on valid) (parseImage_inv parses) hp)).deliver (ok d)

end

/-- Settles O21: the invariant says nothing of the pending inputs, and every effect and the reset event keep it. -/
theorem everyStepKeepsInvariant : Obligations.EveryStepKeepsInvariant := by
  intro s t inv h
  have taken (rest : List Input) : State.Inv { s with inputs := rest } := inv
  cases stepEffect_of_step h with
  | idle => exact inv
  | answer _ hr => exact (taken _).deliver hr
  | command _ _ effect => exact effect_inv (taken _) effect
  | reset => exact (taken _).resetEvent

/-! ## Reset (R44) -/

theorem biasTable_wf (p : Nat) : biasTableWf (Config.biasTable p) = true := by
  unfold Config.biasTable
  split
  · assumption
  · rfl

/-- R6 for the default configuration, whatever the open tables are. -/
theorem default_wf : HwConfig.default.wf = true := by
  simp [HwConfig.wf, HwConfig.default, biasTable_wf]

/-- Settles O20: the default configuration is one of R6, the control fields are reset, and there is no response. -/
theorem invariantHoldsAtReset : Obligations.InvariantHoldsAtReset :=
  ⟨default_wf, fun h => absurd h (by decide), fun _ => afterReset_controlReset _, fun _ h => absurd h List.not_mem_nil⟩

/-- Settles O18, by the definition of `State.reset`. -/
theorem resetValuesOfR44 : Obligations.ResetValuesOfR44 := ⟨rfl, rfl, rfl, rfl, rfl, rfl, rfl⟩

end Machine
end Sys2Proof
end

section
/-! 10_state.md R21, R44: two states that differ in the representation while VALID = 0 stay so, step by step, until
INIT or LOAD_IMAGE makes them equal. -/

namespace Sys2Proof
namespace Machine

/-- t' is t but for the representation fields, and these too are t's once VALID = 1. -/
def State.Twin (t t' : State) : Prop := ∃ D, t' = t.update D ∧ (t.valid = true → D = t.rep)

theorem State.Twin.refl (t : State) : t.Twin t := ⟨t.rep, rfl, fun _ => rfl⟩

theorem State.Twin.eq_of_valid {t t' : State} (h : t.Twin t') (valid : t.valid = true) : t' = t := by
  obtain ⟨D, rfl, same⟩ := h
  rw [same valid]
  rfl

/-- Both outcomes are next states, and these are twins. -/
def YieldTwins (o o' : Host.Outcome State Fault Refusal) : Prop := ∃ t t', o = .next t ∧ o' = .next t' ∧ t.Twin t'

/-- INIT and LOAD_IMAGE write every representation field. -/
theorem hold_twins {s : State} (D E : Dense) (d : Data) :
    YieldTwins (respond d none (s.hold E)) (respond d none ((s.update D).hold E)) :=
  ⟨_, _, rfl, rfl, .refl _⟩

section
variable {s : State} (off : s.valid = false) (D : Dense)
include off

theorem twin_of_not_valid : s.Twin (s.update D) := ⟨D, rfl, fun h => absurd h (by simp [off])⟩

theorem respond_twins (d : Data) (img : Option Image) : YieldTwins (respond d img s) (respond d img (s.update D)) :=
  ⟨_, _, rfl, rfl, twin_of_not_valid (s := s.deliver (okResponse d img)) off D⟩

theorem fail_twins (st : Status) : YieldTwins (fail st s) (fail st (s.update D)) :=
  ⟨_, _, rfl, rfl, twin_of_not_valid (s := s.deliver (failResponse st 0#64)) off D⟩

theorem requireValid_twins (k k' : Host.Outcome State Fault Refusal) :
    YieldTwins (requireValid s k) (requireValid (s.update D) k') := by
  rw [requireValid_of_not_valid off, requireValid_of_not_valid (s := s.update D) off]
  exact fail_twins off D .notInitialized

theorem execInit_twins (p : BitVec 8) : YieldTwins (execInit p s) (execInit p (s.update D)) := by
  unfold execInit
  split
  · exact hold_twins D _ _
  · exact fail_twins off D _

theorem execLoadImage_twins (img : Image) : YieldTwins (execLoadImage img s) (execLoadImage img (s.update D)) := by
  unfold execLoadImage
  rw [State.update_cfg]
  split
  · exact fail_twins off D _
  · exact hold_twins D _ _

theorem execStoreImage_twins : YieldTwins (execStoreImage s) (execStoreImage (s.update D)) := by
  unfold execStoreImage requirePacker
  rw [State.update_cfg]
  split
  · exact requireValid_twins off D _ _
  · exact fail_twins off D _

/-- CSRs 0 and 8 show VALID and the configuration, and every other CSR needs VALID (R33, R41). -/
theorem execReadCsr_twins (csr : BitVec 8) : YieldTwins (execReadCsr csr s) (execReadCsr csr (s.update D)) := by
  unfold execReadCsr
  split
  · exact respond_twins off D _ _
  · split
    · exact respond_twins off D _ _
    · exact requireValid_twins off D _ _

theorem exec_twins (i : Instr) : YieldTwins (exec i s) (exec i (s.update D)) := by
  cases i with
  | nop => exact respond_twins off D _ _
  | init p => exact execInit_twins off D p
  | loadImage img => exact execLoadImage_twins off D img
  | storeImage => exact execStoreImage_twins off D
  | readCsr csr => exact execReadCsr_twins off D csr
  | insert | insertHash | decodeHash | cardinality | mergeImage | verify | readBucket =>
    exact requireValid_twins off D _ _

theorem runCommand_twins (c : Command) : YieldTwins (runCommand c s) (runCommand c (s.update D)) := by
  unfold runCommand
  rw [State.update_cfg]
  split
  · exact exec_twins off D _
  · exact fail_twins off D _

end

theorem step_twins {s s' : State} (h : s.Twin s') : YieldTwins (step s) (step s') := by
  by_cases valid : s.valid = true
  · rw [h.eq_of_valid valid]
    obtain ⟨t, eq, -⟩ := step_yields s
    exact ⟨t, t, eq, eq, .refl t⟩
  · have off : s.valid = false := by simpa using valid
    obtain ⟨D, rfl, -⟩ := h
    match hin : s.inputs with
    | [] => exact ⟨_, _, step_of_nil hin, step_of_nil hin, twin_of_not_valid off D⟩
    | .command c :: rest =>
      rw [step_of_command hin, step_of_command (s := s.update D) hin]
      exact runCommand_twins (s := { s with inputs := rest }) off D c
    | .reset _ :: rest => exact ⟨_, _, step_of_reset hin, step_of_reset (s := s.update D) hin, .refl _⟩

theorem run_succ_of_step (k : Nat) {s t : State} (h : step s = .next t) :
    Host.Core.run Sys2Proof.core (k + 1) s = Host.Core.run Sys2Proof.core k t := by
  have hcore : Sys2Proof.core.step s = .next t := h
  simp only [Host.Core.run, hcore]

theorem run_twins (k : Nat) : ∀ s s' : State, s.Twin s' →
    YieldTwins (Host.Core.run Sys2Proof.core k s) (Host.Core.run Sys2Proof.core k s') := by
  induction k with
  | zero => exact fun s s' h => ⟨s, s', rfl, rfl, h⟩
  | succ k ih =>
    intro s s' h
    obtain ⟨t, t', eq, eq', twin⟩ := step_twins h
    rw [run_succ_of_step k eq, run_succ_of_step k eq']
    exact ih t t' twin

/-- Settles O13: the two runs stay twins, step by step. -/
theorem invalidRepresentationIsUnobservable : Obligations.InvalidRepresentationIsUnobservable := by
  intro k s D off
  obtain ⟨t, t', eq, eq', E, rfl, same⟩ := run_twins k s (s.update D) (twin_of_not_valid off D)
  exact ⟨t, t.update E, eq, eq', rfl, rfl, rfl, same⟩

end Machine
end Sys2Proof
end

section
/-! 20_memory.md R58, R60, R61: one well-formed response per command, and a command reads nothing but the block. -/

namespace Sys2Proof
namespace Machine

/-! ## One response per command (R60) -/

theorem effect_response_good {s t : State} {i : Instr} (h : Effect s i t) :
    ∃ r, t.responses = s.responses ++ [r] ∧ r.Good := by
  cases h with
  | answer h => exact ⟨_, rfl, h.1⟩
  | init | load | insert | insertHash | merge => exact ⟨_, rfl, okResponse_good _ _⟩

/-- Settles O10, from what a step can do with the oldest command. -/
theorem oneResponsePerCommand : Obligations.OneResponsePerCommand := by
  intro s c rest hin
  obtain ⟨t, eq, effect⟩ := step_yields s
  cases effect with
  | idle h => exact absurd (hin.symm.trans h) (by simp)
  | reset h => exact absurd (hin.symm.trans h) (by simp)
  | answer h hr =>
    obtain ⟨-, rfl⟩ := List.cons_eq_cons.mp (hin.symm.trans h)
    exact ⟨_, _, eq, rfl, hr.1, rfl, rfl, rfl⟩
  | command h _ effect =>
    obtain ⟨-, rfl⟩ := List.cons_eq_cons.mp (hin.symm.trans h)
    obtain ⟨cfg, inputs, free, -⟩ := effect_frame effect
    obtain ⟨r, responses, good⟩ := effect_response_good effect
    exact ⟨t, r, eq, responses, good, inputs, cfg, free⟩

/-! ## A command reads VALID, the representation and the configuration only (R61) -/

/-- s with VALID and the representation replaced: all that a command can write, beside its response. -/
def State.withBlock (s : State) (valid : Bool) (D : Dense) : State := { s with valid := valid, rep := D }

/-- One write of the block and one response, made in s and in s', give the two outcomes. -/
def YieldAlike (s s' : State) (o o' : Host.Outcome State Fault Refusal) : Prop :=
  ∃ valid D r, o = .next ((s.withBlock valid D).deliver r) ∧ o' = .next ((s'.withBlock valid D).deliver r)

theorem State.SameBlock.valid {s s' : State} (same : s.SameBlock s') : s'.valid = s.valid := same.1

theorem State.SameBlock.rep {s s' : State} (same : s.SameBlock s') : s'.rep = s.rep := same.2.1

theorem State.SameBlock.cfg {s s' : State} (same : s.SameBlock s') : s'.cfg = s.cfg := same.2.2

/-- If the first outcome is a response alone, so is the second, with the same response. -/
theorem YieldAlike.answer {s s' : State} (same : s.SameBlock s') {r : Response}
    {o' : Host.Outcome State Fault Refusal} (h : YieldAlike s s' (.next (s.deliver r)) o') :
    o' = .next (s'.deliver r) := by
  obtain ⟨valid, D, r', eq, rfl⟩ := h
  rw [Host.Outcome.next.injEq] at eq
  have hvalid : s'.valid = valid := same.valid.trans (congrArg State.valid eq)
  have hrep : s'.rep = D := same.rep.trans (congrArg State.rep eq)
  have hr : r = r' := by simpa [State.withBlock] using congrArg State.responses eq
  subst hvalid hrep hr
  rfl

theorem hold_alike {s s' : State} (D : Dense) (d : Data) :
    YieldAlike s s' (respond d none (s.hold D)) (respond d none (s'.hold D)) := ⟨true, D, _, rfl, rfl⟩

section
variable {s s' : State} (same : s.SameBlock s')
include same

theorem deliver_alike (r : Response) : YieldAlike s s' (.next (s.deliver r)) (.next (s'.deliver r)) :=
  ⟨s.valid, s.rep, r, rfl, by rw [← same.valid, ← same.rep]; rfl⟩

theorem respond_alike (d : Data) (img : Option Image) : YieldAlike s s' (respond d img s) (respond d img s') :=
  deliver_alike same _

theorem fail_alike (st : Status) : YieldAlike s s' (fail st s) (fail st s') := deliver_alike same _

theorem update_alike (D : Dense) (d : Data) :
    YieldAlike s s' (respond d none (s.update D)) (respond d none (s'.update D)) :=
  ⟨s.valid, D, _, rfl, by rw [← same.valid]; rfl⟩

theorem requireValid_alike {k k' : Host.Outcome State Fault Refusal} (h : YieldAlike s s' k k') :
    YieldAlike s s' (requireValid s k) (requireValid s' k') := by
  unfold requireValid
  rw [same.valid]
  split
  · exact h
  · exact fail_alike same _

theorem execInit_alike (p : BitVec 8) : YieldAlike s s' (execInit p s) (execInit p s') := by
  unfold execInit
  split
  · exact hold_alike _ _
  · exact fail_alike same _

theorem execInsert_alike (b : BitVec 16) (v : BitVec 8) : YieldAlike s s' (execInsert b v s) (execInsert b v s') := by
  refine requireValid_alike same ?_
  rw [same.rep]
  split
  · exact update_alike same _ _
  · exact fail_alike same _

theorem execInsertHash_alike (h : Hash) : YieldAlike s s' (execInsertHash h s) (execInsertHash h s') := by
  refine requireValid_alike same ?_
  rw [same.rep]
  unfold insertDecoded
  rw [same.rep]
  exact update_alike same _ _

theorem execDecodeHash_alike (h : Hash) : YieldAlike s s' (execDecodeHash h s) (execDecodeHash h s') := by
  refine requireValid_alike same ?_
  rw [same.rep]
  exact respond_alike same _ _

theorem execCardinality_alike : YieldAlike s s' (execCardinality s) (execCardinality s') := by
  refine requireValid_alike same ?_
  rw [same.rep, same.cfg]
  exact respond_alike same _ _

theorem execMergeImage_alike (img : Image) : YieldAlike s s' (execMergeImage img s) (execMergeImage img s') := by
  refine requireValid_alike same ?_
  rw [same.rep, same.cfg]
  split
  · exact fail_alike same _
  · split
    · exact update_alike same _ _
    · exact fail_alike same _

theorem execLoadImage_alike (img : Image) : YieldAlike s s' (execLoadImage img s) (execLoadImage img s') := by
  unfold execLoadImage
  rw [same.cfg]
  split
  · exact fail_alike same _
  · exact hold_alike _ _

theorem execStoreImage_alike : YieldAlike s s' (execStoreImage s) (execStoreImage s') := by
  unfold execStoreImage requirePacker
  rw [same.rep, same.cfg]
  split
  · refine requireValid_alike same ?_
    split
    · exact fail_alike same _
    · exact respond_alike same _ _
  · exact fail_alike same _

theorem execVerify_alike : YieldAlike s s' (execVerify s) (execVerify s') := by
  refine requireValid_alike same ?_
  rw [same.rep]
  split
  · exact deliver_alike same _
  · exact respond_alike same _ _

theorem execReadBucket_alike (b : BitVec 16) : YieldAlike s s' (execReadBucket b s) (execReadBucket b s') := by
  refine requireValid_alike same ?_
  rw [same.rep]
  split
  · exact respond_alike same _ _
  · exact fail_alike same _

theorem execReadCsr_alike (csr : BitVec 8) : YieldAlike s s' (execReadCsr csr s) (execReadCsr csr s') := by
  unfold execReadCsr csrStatus
  rw [same.valid, same.rep, same.cfg]
  split
  · exact respond_alike same _ _
  · split
    · exact respond_alike same _ _
    · refine requireValid_alike same ?_
      split
      · exact respond_alike same _ _
      · exact fail_alike same _

/-- No instruction reads the inputs, the responses or the free counter. -/
theorem exec_alike (i : Instr) : YieldAlike s s' (exec i s) (exec i s') := by
  cases i with
  | nop => exact respond_alike same _ _
  | init p => exact execInit_alike same p
  | insert b v => exact execInsert_alike same b v
  | insertHash h => exact execInsertHash_alike same h
  | decodeHash h => exact execDecodeHash_alike same h
  | cardinality => exact execCardinality_alike same
  | mergeImage img => exact execMergeImage_alike same img
  | loadImage img => exact execLoadImage_alike same img
  | storeImage => exact execStoreImage_alike same
  | verify => exact execVerify_alike same
  | readBucket b => exact execReadBucket_alike same b
  | readCsr csr => exact execReadCsr_alike same csr

theorem runCommand_alike (c : Command) : YieldAlike s s' (runCommand c s) (runCommand c s') := by
  unfold runCommand
  rw [same.cfg]
  split
  · exact exec_alike same _
  · exact fail_alike same _

end

/-- Settles O12: a command has the same effect in the two states, and the reset event reads none of them. -/
theorem laterInputsAndResponsesAreNotRead : Obligations.LaterInputsAndResponsesAreNotRead := by
  intro s t later earlier pending h
  match hin : s.inputs with
  | [] => exact absurd hin pending
  | .reset c :: rest =>
    rw [step_of_reset hin, Host.Outcome.next.injEq] at h
    subst h
    exact step_of_reset rfl
  | .command c :: rest =>
    obtain ⟨valid, D, r, eq, eq'⟩ := runCommand_alike (s := { s with inputs := rest })
      (s' := { s with inputs := rest ++ later, responses := earlier ++ s.responses }) ⟨rfl, rfl, rfl⟩ c
    rw [step_of_command hin, eq, Host.Outcome.next.injEq] at h
    subst h
    refine (step_of_command (rest := rest ++ later) rfl).trans (eq'.trans ?_)
    rw [State.deliver_responses, ← List.append_assoc]
    rfl

/-! ## The reading commands (R58) -/

/-- The seven commands that R58 says write nothing. -/
abbrev Instr.Reading (i : Instr) : Prop :=
  (∃ b, i = .readBucket b) ∨ (∃ c, i = .readCsr c) ∨ (∃ h, i = .decodeHash h) ∨ i = .cardinality ∨ i = .verify ∨
    i = .storeImage ∨ i = .nop

theorem effect_of_reading {s t : State} {i : Instr} (hi : Instr.Reading i) (h : Effect s i t) :
    ∃ r, t = s.deliver r := by
  cases h with
  | answer => exact ⟨_, rfl⟩
  | init | load | insert | insertHash | merge => exact absurd hi (by simp [Instr.Reading])

/-- A reading command gives one response, in every state with the same block. -/
theorem exec_of_reading {i : Instr} (hi : Instr.Reading i) (s : State) :
    ∃ r, ∀ s' : State, s.SameBlock s' → exec i s' = .next (s'.deliver r) := by
  obtain ⟨t, eq, effect⟩ := exec_yields i s
  obtain ⟨r, rfl⟩ := effect_of_reading hi effect
  exact ⟨r, fun s' same => YieldAlike.answer same (eq ▸ exec_alike same i)⟩

/-- Settles O16: a response leaves the block as it is. -/
theorem readingCommandsWriteNothing : Obligations.ReadingCommandsWriteNothing := by
  intro s i hi
  obtain ⟨r, answers⟩ := exec_of_reading hi s
  exact ⟨r, answers s ⟨rfl, rfl, rfl⟩, answers (s.deliver r) ⟨rfl, rfl, rfl⟩⟩

end Machine
end Sys2Proof
end

section
/-! 42_register_update.md R142, 20_memory.md R58: exactly when an insert changes nothing, and when a second one does
not. -/

namespace Sys2Proof
namespace Machine

/-! ## A write that changes nothing -/

theorem nibAt_eq_fifteen_iff {D : Dense} {b : Nat} : D.nibAt b = 15#4 ↔ (D.nibAt b).toNat = 15 :=
  ⟨congrArg BitVec.toNat, fun h => BitVec.eq_of_toNat_eq h⟩

theorem value_eq_of_nibAt_ne_fifteen {D : Dense} (inv : D.Inv) {b : Nat} (h : D.nibAt b ≠ 15#4) :
    D.value b = D.baseline.toNat + (D.nibAt b).toNat :=
  Nat.add_eq_left.mpr (Nat.eq_zero_of_not_pos fun pos => h (inv.nibAt_eq_fifteen pos))

theorem excessOf_le_value (o : Slot) (b : Nat) : o.excessOf b ≤ o.value.toNat := by
  unfold Slot.excessOf
  split
  · exact le_rfl
  · exact Nat.zero_le _

/-- Above BASELINE + nibble, only the slot's bucket can have the value, and then the excess loses to its own. -/
theorem has_value_or_loses_iff {D : Dense} (inv : D.Inv) {b v : Nat}
    (above : D.baseline.toNat + (D.nibAt b).toNat < v) :
    v ≤ D.value b ∨ (D.nibAt b = 15#4 ∧ v ≤ D.baseline.toNat + 15 + D.ovf.value.toNat) ↔
      D.nibAt b = 15#4 ∧ v - D.baseline.toNat ≤ 15 + D.ovf.value.toNat := by
  by_cases full : D.nibAt b = 15#4
  · have excess := excessOf_le_value D.ovf b
    simp only [full, true_and]
    rw [nibAt_eq_fifteen_iff] at full
    rw [Dense.value]
    omega
  · simp only [full, false_and, or_false, iff_false, value_eq_of_nibAt_ne_fifteen inv full]
    exact not_le.mpr above

/-- A delta that does not exceed 15 by more than the slot's excess leaves the slot. -/
theorem slotAfterDelta_eq_self {o : Slot} {delta : Nat} (b : Nat) (h : delta ≤ 15 + o.value.toNat) :
    slotAfterDelta o b delta = o := by
  unfold slotAfterDelta
  split
  · exact if_neg (by omega)
  · rfl

/-- Any other takes it, with its own excess (R142). -/
theorem slotAfterDelta_of_wins {o : Slot} {delta : Nat} (b : Nat) (h : 15 + o.value.toNat < delta) :
    slotAfterDelta o b delta = ⟨true, BitVec.ofNat 16 b, BitVec.ofNat 8 (delta - 15)⟩ :=
  (if_pos (by omega)).trans (if_pos (by omega))

/-- The slot's excess is at least that of the delta, whether it took the slot or lost. -/
theorem le_slotAfterDelta_value (o : Slot) (b : Nat) {delta : Nat} (h : delta ≤ 255) :
    delta ≤ 15 + (slotAfterDelta o b delta).value.toNat := by
  by_cases loses : delta ≤ 15 + o.value.toNat
  · rwa [slotAfterDelta_eq_self b loses]
  · rw [slotAfterDelta_of_wins b (not_le.mp loses)]
    simp only [BitVec.toNat_ofNat, Nat.reducePow]
    omega

section
variable {D : Dense} (inv : D.Inv) {b : Nat} (hb : b < D.m)
include inv hb

theorem writeDelta_nibAt_self (delta : Nat) : ((writeDelta D b delta).nibAt b).toNat = min delta 15 := by
  obtain ⟨-, len, -⟩ := inv
  simp [writeDelta_nibAt D delta b (len.symm ▸ hb)]

/-- Nibble 15 is written again, and the slot is not taken. -/
theorem writeDelta_eq_self {delta : Nat} (full : D.nibAt b = 15#4) (above : 15 < delta)
    (loses : delta ≤ 15 + D.ovf.value.toNat) : writeDelta D b delta = D := by
  obtain ⟨-, len, -⟩ := inv
  have nib : D.nib.set b (BitVec.ofNat 4 (clampDelta delta)) = D.nib := by
    rw [clampDelta_eq_fifteen above.le, ← full, nibAt_eq_getElem (len.symm ▸ hb)]
    exact List.set_getElem_self _
  rw [writeDelta, nib, slotAfterDelta_eq_self b loses, if_neg (by rw [full]; decide)]

/-- A write raises the bucket's value, but for an excess that loses to the slot at nibble 15. -/
theorem value_lt_writeDelta_value {delta : Nat} (hd : (D.nibAt b).toNat < delta) (fits : delta ≤ 255)
    (wins : D.nibAt b = 15#4 → 15 + D.ovf.value.toNat < delta) : D.value b < (writeDelta D b delta).value b := by
  have nib := writeDelta_nibAt_self inv hb delta
  have hlen := inv.length_le
  by_cases full : D.nibAt b = 15#4
  · have excess := excessOf_le_value D.ovf b
    have hb16 : b % 65536 = b := Nat.mod_eq_of_lt (by obtain ⟨-, len, -⟩ := inv; omega)
    have new : (writeDelta D b delta).ovf.excessOf b = delta - 15 := by
      rw [writeDelta_ovf, slotAfterDelta_of_wins b (wins full)]
      simp only [Slot.excessOf, BitVec.toNat_ofNat, Nat.reducePow, hb16, and_self, if_true]
      omega
    have := wins full
    rw [nibAt_eq_fifteen_iff] at full
    rw [Dense.value, Dense.value, nib, new, writeDelta_baseline]
    omega
  · rw [value_eq_of_nibAt_ne_fifteen inv full, Dense.value, nib, writeDelta_baseline]
    rw [nibAt_eq_fifteen_iff] at full
    omega

/-! ## insert_core (R142) -/

/-- The raise after a write keeps the values the write has made (R148). -/
theorem insertCore_value {v : Nat} (hv : D.baseline.toNat + (D.nibAt b).toNat < v) {c : Nat} (hc : c < D.m) :
    (insertCore D b v).value c = (writeDelta D b (v - D.baseline.toNat)).value c := by
  rcases insertCore_cases D b v with ⟨le, -⟩ | ⟨-, -, eq⟩ | ⟨-, -, eq⟩
  · omega
  · rw [eq]
  · rw [eq, raiseBaseline_value (writeDelta_inv inv hb (by omega)) hc]

/-- R142: an insert changes nothing exactly when the bucket has the value, or its nibble is 15 and the excess does not
exceed the slot's. -/
theorem insertCore_eq_self_iff {v : Nat} (hv : v ≤ 255) :
    insertCore D b v = D ↔
      v ≤ D.value b ∨ (D.nibAt b = 15#4 ∧ v ≤ D.baseline.toNat + 15 + D.ovf.value.toNat) := by
  by_cases low : v ≤ D.baseline.toNat + (D.nibAt b).toNat
  · exact iff_of_true (if_pos low) (.inl (low.trans (Nat.le_add_right _ _)))
  · have above := not_le.mp low
    rw [has_value_or_loses_iff inv above]
    constructor
    · intro same
      by_contra wins
      have raised := value_lt_writeDelta_value inv hb (delta := v - D.baseline.toNat) (by omega) (by omega)
        fun full => not_le.mp fun loses => wins ⟨full, loses⟩
      rw [← insertCore_value inv hb above hb, same] at raised
      exact raised.false
    · rintro ⟨full, loses⟩
      have clamped : 15 < v - D.baseline.toNat := by rw [nibAt_eq_fifteen_iff.mp full] at above; omega
      rw [insertCore, if_neg low, writeDelta_eq_self inv hb full clamped loses]
      exact if_neg fun empty => absurd (full.symm.trans empty.1) (by decide)

end

/-! ## A repeated insert (20_memory.md R58) -/

/-- A raise that leaves BASELINE has made no pass. -/
theorem raiseBaseline_eq_self_of_baseline {D : Dense} (same : (raiseBaseline D).baseline = D.baseline) :
    raiseBaseline D = D := by
  have raised : raiseBaseline D = D ∨ D.baseline.toNat < (raiseBaseline D).baseline.toNat :=
    raiseBaseline_induct (motive := fun E => E = D ∨ D.baseline.toNat < E.baseline.toNat) D (.inl rfl) <| by
      intro E h _ low
      rw [raisePass_baseline, toNat_add_one_of_ne_max low]
      rcases h with rfl | h <;> omega
  exact raised.resolve_right (by rw [same]; exact Nat.lt_irrefl _)

section
variable {D : Dense} (inv : D.Inv) {b : Nat} (hb : b < D.m) {v : Nat} (hv : v ≤ 255)
include inv hb hv

/-- The value just written is there, or its excess has lost to the slot. -/
theorem insertCore_of_writeDelta (above : D.baseline.toNat + (D.nibAt b).toNat < v) :
    insertCore (writeDelta D b (v - D.baseline.toNat)) b v = writeDelta D b (v - D.baseline.toNat) := by
  have nib := writeDelta_nibAt_self inv hb (v - D.baseline.toNat)
  have slot := le_slotAfterDelta_value D.ovf b (show v - D.baseline.toNat ≤ 255 by omega)
  refine (insertCore_eq_self_iff (writeDelta_inv inv hb (by omega)) hb hv).mpr ?_
  by_cases clamped : v - D.baseline.toNat < 15
  · left
    rw [Dense.value, nib, writeDelta_baseline]
    omega
  · right
    refine ⟨nibAt_eq_fifteen_iff.mpr (nib.trans (min_eq_right (not_lt.mp clamped))), ?_⟩
    rw [writeDelta_baseline, writeDelta_ovf]
    omega

theorem insertCore_insertCore_of_baseline (same : (insertCore D b v).baseline = D.baseline) :
    insertCore (insertCore D b v) b v = insertCore D b v := by
  rcases insertCore_cases D b v with ⟨-, eq⟩ | ⟨above, -, eq⟩ | ⟨above, -, eq⟩
  · rw [eq, eq]
  · rw [eq, insertCore_of_writeDelta inv hb hv above]
  · rw [eq] at same
    rw [eq, raiseBaseline_eq_self_of_baseline same, insertCore_of_writeDelta inv hb hv above]

theorem insertCore_insertCore_of_value (has : v ≤ (insertCore D b v).value b) :
    insertCore (insertCore D b v) b v = insertCore D b v :=
  (insertCore_eq_self_iff (insertCore_inv inv hb v) (by rwa [Dense.m, insertCore_p]) hv).mpr (.inl has)

end

/-! ## INSERT_HASH (R144, R145) -/

theorem registerValue_le (h : Hash) (bits : Nat) : registerValue h bits ≤ 65 := by
  unfold registerValue leadingZeroRun clz64
  omega

@[simp] theorem changed_self (D : Dense) : changed D D = false := by simp [changed]

theorem updateData_changed (c : Bool) (b v : Nat) : (updateData c b v).getLsbD 24 = c := by
  rw [updateData, BitVec.getLsbD_append, BitVec.getLsbD_append, BitVec.getLsbD_append]
  simp

theorem exec_insertHash_of_valid {s : State} (valid : s.valid = true) (h : Hash) :
    exec (.insertHash h) s = insertDecoded (bucketIndex h s.rep.p.toNat) (registerValue h s.rep.p.toNat) s :=
  requireValid_of_valid valid _

/-- A max-update that only answers OK is one that leaves the representation, and its `changed` bit is 0. -/
theorem insertDecoded_eq_deliver_iff (b v : Nat) (s : State) (d : Data) :
    insertDecoded b v s = .next (s.deliver ⟨0#4, d, none⟩) ↔
      insertCore s.rep b v = s.rep ∧ d = updateData false b v := by
  constructor
  · intro h
    rw [insertDecoded, respond_eq, Host.Outcome.next.injEq] at h
    have same : insertCore s.rep b v = s.rep := congrArg State.rep h
    refine ⟨same, ?_⟩
    simpa [okResponse, Status.code, same, eq_comm] using congrArg State.responses h
  · rintro ⟨same, rfl⟩
    rw [insertDecoded, same, changed_self]
    rfl

/-- INSERT_HASH only answers OK exactly when its max-update leaves the representation. -/
theorem exec_insertHash_eq_deliver_iff {s : State} (valid : s.valid = true) (h : Hash) (d : Data) :
    exec (.insertHash h) s = .next (s.deliver ⟨0#4, d, none⟩) ↔
      insertCore s.rep (bucketIndex h s.rep.p.toNat) (registerValue h s.rep.p.toNat) = s.rep ∧
      d = updateData false (bucketIndex h s.rep.p.toNat) (registerValue h s.rep.p.toNat) := by
  rw [exec_insertHash_of_valid valid, insertDecoded_eq_deliver_iff]

/-- Settles O34: the exact condition, once for the max-update and once for the hash's bucket and value; CARDINALITY
reads only the block, which the answer leaves. -/
theorem repeatedInsertWithoutRaiseIsNoOp : Obligations.RepeatedInsertWithoutRaiseIsNoOp := by
  refine ⟨fun D b v inv hb hv => ⟨insertCore_eq_self_iff inv hb hv, ?_⟩, fun s h valid inv => ⟨?_, fun d answer => ?_⟩⟩
  · rintro (same | has)
    · exact insertCore_insertCore_of_baseline inv hb hv same
    · exact insertCore_insertCore_of_value inv hb hv has
  · have hb : bucketIndex h s.rep.p.toNat < s.rep.m := bucketIndex_lt (by have := s.rep.p.isLt; omega)
    rw [← insertCore_eq_self_iff inv hb ((registerValue_le h _).trans (by decide))]
    simp [exec_insertHash_eq_deliver_iff valid]
  · obtain ⟨-, rfl⟩ := (exec_insertHash_eq_deliver_iff valid h d).mp answer
    obtain ⟨r, reads⟩ := exec_of_reading (i := .cardinality) (by simp [Instr.Reading]) s
    exact ⟨updateData_changed _ _ _, r, reads s ⟨rfl, rfl, rfl⟩, reads _ ⟨rfl, rfl, rfl⟩⟩

end Machine
end Sys2Proof
end

section
/-! 30_encoding.md R70 to R78: the legal commands, and that decoding and encoding are inverse on them. -/

namespace Sys2Proof

/-! ## Legal commands (R75 to R77) -/

/-- What the checks of R78 leave: the commands that R75, R76 and R77 do not forbid. -/
structure Command.Legal (hasPacker : Bool) (c : Command) : Prop where
  /-- R75 -/
  opcode : (opField c.word).toNat ≤ 0x0B
  /-- R76 -/
  a8 : usesA8 (opField c.word) = false → a8Field c.word = 0#8
  /-- R76 -/
  a16 : usesA16 (opField c.word) = false → a16Field c.word = 0#16
  /-- R76 -/
  a64 : usesA64 (opField c.word) = false → a64Field c.word = 0#64
  /-- R77 -/
  image : c.img.isSome = needsImage (opField c.word)
  /-- R77, R218 -/
  packer : opField c.word = 0x08#8 → hasPacker = true

theorem legal_of_decode {hasPacker : Bool} {c : Command} {i : Instr} (h : decode hasPacker c = .ok i) :
    c.Legal hasPacker := by
  unfold decode at h
  split_ifs at h with hop h8 h16 h64 missing extra bare
  exact {
    opcode := not_lt.mp hop
    a8 := not_and_not_right.mp h8
    a16 := not_and_not_right.mp h16
    a64 := not_and_not_right.mp h64
    image := by
      cases need : needsImage (opField c.word) with
      | false => simpa [need] using extra
      | true => simpa [need, Option.isSome_iff_ne_none] using missing
    packer := by simpa using bare }

theorem decode_error_of_not_legal {hasPacker : Bool} {c : Command} (h : ¬ c.Legal hasPacker) :
    ∃ e, decode hasPacker c = .error e := by
  match hd : decode hasPacker c with
  | .ok i => exact absurd (legal_of_decode hd) h
  | .error e => exact ⟨e, rfl⟩

/-! ## The encoding of an instruction decodes to it -/

theorem decode_encode {hasPacker : Bool} {i : Instr} (wf : WellFormed hasPacker i = true) :
    decode hasPacker (encode i) = .ok i := by
  cases i with
  | storeImage =>
    obtain rfl : hasPacker = true := wf
    rfl
  | _ =>
    simp only [encode, encodeWord, encodeImage, decode, opField_packWord, a8Field_packWord, a16Field_packWord,
      a64Field_packWord]
    rfl

/-! ## A legal command is the encoding of an instruction -/

/-- The command of an opcode with the fields and the image that the opcode uses (R74), and zeros in the others. -/
def commandOf (op a8 : BitVec 8) (a16 : BitVec 16) (a64 : BitVec 64) (img : Image) : Command where
  word := packWord op (if usesA8 op then a8 else 0#8) (if usesA16 op then a16 else 0#16)
    (if usesA64 op then a64 else 0#64)
  img := if needsImage op then some img else none

theorem opcode_cases {op : BitVec 8} (h : op.toNat ≤ 0x0B) :
    op = 0x00#8 ∨ op = 0x01#8 ∨ op = 0x02#8 ∨ op = 0x03#8 ∨ op = 0x04#8 ∨ op = 0x05#8 ∨ op = 0x06#8 ∨ op = 0x07#8 ∨
      op = 0x08#8 ∨ op = 0x09#8 ∨ op = 0x0A#8 ∨ op = 0x0B#8 := by
  bv_omega

theorem exists_encode_eq_commandOf {hasPacker : Bool} {op : BitVec 8} (hop : op.toNat ≤ 0x0B)
    (packer : op = 0x08#8 → hasPacker = true) (a8 : BitVec 8) (a16 : BitVec 16) (a64 : BitVec 64) (img : Image) :
    ∃ i, WellFormed hasPacker i = true ∧ encode i = commandOf op a8 a16 a64 img := by
  rcases opcode_cases hop with rfl | rfl | rfl | rfl | rfl | rfl | rfl | rfl | rfl | rfl | rfl | rfl
  · exact ⟨.nop, rfl, rfl⟩
  · exact ⟨.init a8, rfl, rfl⟩
  · exact ⟨.insert a16 a8, rfl, rfl⟩
  · exact ⟨.insertHash a64, rfl, rfl⟩
  · exact ⟨.decodeHash a64, rfl, rfl⟩
  · exact ⟨.cardinality, rfl, rfl⟩
  · exact ⟨.mergeImage img, rfl, rfl⟩
  · exact ⟨.loadImage img, rfl, rfl⟩
  · exact ⟨.storeImage, packer rfl, rfl⟩
  · exact ⟨.verify, rfl, rfl⟩
  · exact ⟨.readBucket a16, rfl, rfl⟩
  · exact ⟨.readCsr a8, rfl, rfl⟩

theorem ite_zero_eq_self {n : Nat} {uses : Bool} {x : BitVec n} (h : uses = false → x = 0#n) :
    (if uses then x else 0#n) = x := by
  cases uses with
  | false => exact (h rfl).symm
  | true => rfl

/-- A legal command has nothing outside the fields its opcode uses. -/
theorem commandOf_fields {hasPacker : Bool} {c : Command} (h : c.Legal hasPacker) :
    commandOf (opField c.word) (a8Field c.word) (a16Field c.word) (a64Field c.word) (c.img.getD []) = c := by
  obtain ⟨w, img⟩ := c
  have image : (if needsImage (opField w) then some (img.getD []) else none) = img := by
    rw [← h.image]
    cases img <;> rfl
  rw [commandOf, ite_zero_eq_self h.a8, ite_zero_eq_self h.a16, ite_zero_eq_self h.a64, image, packWord_fields]

theorem exists_encode_eq_of_legal {hasPacker : Bool} {c : Command} (h : c.Legal hasPacker) :
    ∃ i, WellFormed hasPacker i = true ∧ encode i = c := by
  obtain ⟨i, wf, eq⟩ := exists_encode_eq_commandOf h.opcode h.packer (a8Field c.word) (a16Field c.word)
    (a64Field c.word) (c.img.getD [])
  exact ⟨i, wf, eq.trans (commandOf_fields h)⟩

theorem exists_decode_iff_legal {hasPacker : Bool} {c : Command} :
    (∃ i, decode hasPacker c = .ok i) ↔ c.Legal hasPacker := by
  refine ⟨fun ⟨_, h⟩ => legal_of_decode h, fun h => ?_⟩
  obtain ⟨i, wf, rfl⟩ := exists_encode_eq_of_legal h
  exact ⟨i, decode_encode wf⟩

/-- A legal command is some encoding, and the instruction that encoding decodes to is the one it encodes. -/
theorem encode_of_decode {hasPacker : Bool} {c : Command} {i : Instr} (h : decode hasPacker c = .ok i) :
    WellFormed hasPacker i = true ∧ encode i = c := by
  obtain ⟨j, wf, rfl⟩ := exists_encode_eq_of_legal (legal_of_decode h)
  obtain rfl : j = i := by simpa [decode_encode wf] using h
  exact ⟨wf, rfl⟩

/-- Settles O2, instruction by instruction. -/
theorem encodedInstructionDecodesBack : Obligations.EncodedInstructionDecodesBack :=
  fun _ _ wf => decode_encode wf

/-- Settles O3: a legal command is an encoding, and it decodes to what it encodes. -/
theorem decodedCommandEncodesBack : Obligations.DecodedCommandEncodesBack :=
  fun _ _ _ h => encode_of_decode h

/-- Settles O1, by the decoder on each word. -/
theorem writtenWordsDecode : Obligations.WrittenWordsDecode :=
  ⟨rfl, rfl, rfl, rfl, rfl, rfl, rfl, rfl, rfl, rfl, rfl, rfl, rfl, rfl, rfl⟩

end Sys2Proof
end

section
/-! 30_encoding.md R78: the rows of the opcode table that a legal word matches. -/

namespace Sys2Proof

/-! ## Words by their fields (R71) -/

/-- Two words are equal when their fields are. -/
theorem word_eq_iff {v w : CmdWord} :
    v = w ↔ opField v = opField w ∧ a8Field v = a8Field w ∧ a16Field v = a16Field w ∧ a64Field v = a64Field w := by
  constructor
  · rintro rfl
    exact ⟨rfl, rfl, rfl, rfl⟩
  · rintro ⟨hop, h8, h16, h64⟩
    rw [← packWord_fields v, hop, h8, h16, h64, packWord_fields]

@[simp] theorem opField_and (v w : CmdWord) : opField (v &&& w) = opField v &&& opField w := BitVec.extractLsb'_and
@[simp] theorem a8Field_and (v w : CmdWord) : a8Field (v &&& w) = a8Field v &&& a8Field w := BitVec.extractLsb'_and
@[simp] theorem a16Field_and (v w : CmdWord) : a16Field (v &&& w) = a16Field v &&& a16Field w := BitVec.extractLsb'_and
@[simp] theorem a64Field_and (v w : CmdWord) : a64Field (v &&& w) = a64Field v &&& a64Field w := BitVec.extractLsb'_and

/-! ## Rows -/

/-- The opcode of a row (R71). -/
def OpcodeRow.opcode (r : OpcodeRow) : BitVec 8 := opField r.matchBits

/-- A row has zeros outside the opcode, and masks the opcode and every field the opcode does not use (R74). -/
theorem opcodeTable_fields : ∀ r ∈ opcodeTable,
    r.matchBits = packWord r.opcode 0#8 0#16 0#64 ∧
    r.mask = packWord (BitVec.allOnes 8) (if usesA8 r.opcode then 0#8 else BitVec.allOnes 8)
      (if usesA16 r.opcode then 0#16 else BitVec.allOnes 16)
      (if usesA64 r.opcode then 0#64 else BitVec.allOnes 64) := by
  decide

theorem and_mask_eq_zero_iff {n : Nat} (uses : Bool) (x : BitVec n) :
    x &&& (if uses then 0#n else BitVec.allOnes n) = 0#n ↔ (uses = false → x = 0#n) := by
  cases uses <;> simp

theorem matchesWord_iff {r : OpcodeRow} (hr : r ∈ opcodeTable) (w : CmdWord) :
    r.matchesWord w = true ↔ opField w = r.opcode ∧ (usesA8 r.opcode = false → a8Field w = 0#8) ∧
      (usesA16 r.opcode = false → a16Field w = 0#16) ∧ (usesA64 r.opcode = false → a64Field w = 0#64) := by
  obtain ⟨bits, mask⟩ := opcodeTable_fields r hr
  rw [OpcodeRow.matchesWord, beq_iff_eq, word_eq_iff, bits, mask]
  simp only [opField_and, a8Field_and, a16Field_and, a64Field_and, opField_packWord, a8Field_packWord,
    a16Field_packWord, a64Field_packWord, BitVec.and_allOnes, and_mask_eq_zero_iff]

/-- The unused fields of a legal word are zero, so it matches the rows of its opcode. -/
theorem matchingRows_of_legal {hasPacker : Bool} {c : Command} (h : c.Legal hasPacker) :
    matchingRows c.word = opcodeTable.filter fun r => r.opcode == opField c.word := by
  refine List.filter_congr fun r hr => ?_
  rw [Bool.eq_iff_iff, matchesWord_iff hr, beq_iff_eq, eq_comm]
  exact and_iff_left_of_imp fun same => same ▸ ⟨h.a8, h.a16, h.a64⟩

/-- The table has one row with the opcode of an instruction, and it has the instruction's mnemonic. -/
theorem exists_row_of_encodeWord (i : Instr) : ∃ r ∈ opcodeTable, r.mnemonic = i.mnemonic ∧
    (opcodeTable.filter fun r => r.opcode == opField (encodeWord i)) = [r] := by
  cases i <;> simp only [encodeWord, opField_packWord, Instr.mnemonic] <;> decide

/-- Settles O4: a legal word matches the rows of its opcode, and there is one. -/
theorem legalWordMatchesExactlyItsRow : Obligations.LegalWordMatchesExactlyItsRow := by
  intro hasPacker c i h
  rw [matchingRows_of_legal (legal_of_decode h)]
  obtain ⟨-, rfl⟩ := encode_of_decode h
  exact exists_row_of_encodeWord i

end Sys2Proof
end

section
/-! 30_encoding.md R75 to R78: what a step does with a command, legal or not. -/

namespace Sys2Proof
namespace Machine

section
variable {s : State} {c : Command} {rest : List Input} (hin : s.inputs = .command c :: rest)
include hin

theorem step_of_decode_ok {i : Instr} (h : decode s.cfg.hasPacker c = .ok i) :
    step s = exec i { s with inputs := rest } := by
  rw [step_of_command hin]
  simp only [runCommand, h]

theorem step_of_decode_error {e : DecodeError} (h : decode s.cfg.hasPacker c = .error e) :
    step s = .next (({ s with inputs := rest } : State).deliver ⟨1#4, 0#64, none⟩) := by
  rw [step_of_command hin]
  simp only [runCommand, h]
  rfl

theorem step_of_not_legal (h : ¬ c.Legal s.cfg.hasPacker) :
    step s = .next (({ s with inputs := rest } : State).deliver ⟨1#4, 0#64, none⟩) := by
  obtain ⟨e, he⟩ := decode_error_of_not_legal h
  exact step_of_decode_error hin he

end

/-- Settles O5: a reserved opcode is not legal. -/
theorem reservedOpcodesAreIllegal : Obligations.ReservedOpcodesAreIllegal :=
  fun _ _ _ hin reserved => step_of_not_legal hin fun legal => not_lt.mpr legal.opcode reserved

/-- Settles O8, from the cases of `step`. -/
theorem stepRunsDecodedInstruction : Obligations.StepRunsDecodedInstruction :=
  ⟨fun _ _ _ hin => ⟨fun _ => step_of_decode_ok hin, fun _ => step_of_decode_error hin⟩,
    fun s nbits w _ => step_of_decode_ok (State.withFetchWord_inputs s nbits w), fun _ => step_of_nil⟩

/-- Settles O6: a legal command has zeros in the fields its opcode does not use, and legality reads of the image only
whether there is one. -/
theorem unusedFieldsMustBeZero : Obligations.UnusedFieldsMustBeZero := by
  refine ⟨fun s c rest hin _ unused => step_of_not_legal hin fun legal => ?_, fun hasPacker w img img' same => ?_⟩
  · rcases unused with ⟨h1, h2, hB, nonzero⟩ | ⟨h2, hA, nonzero⟩ | ⟨h3, h4, nonzero⟩
    · exact nonzero (legal.a8 (by simp [usesA8, h1, h2, hB]))
    · exact nonzero (legal.a16 (by simp [usesA16, h2, hA]))
    · exact nonzero (legal.a64 (by simp [usesA64, h3, h4]))
  · rw [exists_decode_iff_legal, exists_decode_iff_legal]
    exact ⟨fun h => { h with image := same ▸ h.image }, fun h => { h with image := same ▸ h.image }⟩

/-- Settles O7: a legal command has an image exactly when its opcode needs one, and the two words are encodings. -/
theorem imagePresenceDecidesLegality : Obligations.ImagePresenceDecidesLegality := by
  refine ⟨fun s c rest hin forbidden => step_of_not_legal hin fun legal => ?_, fun hasPacker img => ?_⟩
  · rcases forbidden with ⟨needs, missing⟩ | ⟨h6, h7, extra⟩ | ⟨store, bare⟩
    · have needed : needsImage (opField c.word) = true := by simpa [needsImage] using needs
      simpa [missing, needed] using legal.image
    · have unneeded : needsImage (opField c.word) = false := by simp [needsImage, h6, h7]
      exact extra (by simpa [unneeded] using legal.image)
    · exact absurd (legal.packer store) (by simp [bare])
  · exact ⟨decode_encode (i := .mergeImage img) rfl, decode_encode (i := .loadImage img) rfl⟩

end Machine
end Sys2Proof
end

section
/-! 40_hash_lzc.md R100 to R104: the hash front end, and DECODE_HASH. -/

namespace Sys2Proof
namespace Machine

/-! ## clz64 (00_scope.md R7) -/

theorem getLsbD_eq_false_of_lt_clz64 {x : BitVec 64} {i : Nat} (h : i < clz64 x) : x.getLsbD (63 - i) = false := by
  have small : bitlen x.toNat ≤ 63 - i := by
    unfold clz64 at h
    omega
  exact Nat.testBit_lt_two_pow ((bitlen_le_iff _ _).mp small)

theorem getLsbD_eq_true_of_clz64_lt {x : BitVec 64} (h : clz64 x < 64) : x.getLsbD (63 - clz64 x) = true := by
  have fits : bitlen x.toNat ≤ 64 := (bitlen_le_iff _ _).mpr x.isLt
  have len : bitlen x.toNat = 63 - clz64 x + 1 := by
    unfold clz64 at h ⊢
    omega
  exact Nat.testBit_of_two_pow_le_and_two_pow_add_one_gt ((lt_bitlen_iff _ _).mp (by omega))
    ((bitlen_le_iff _ _).mp len.le)

theorem clz64_le_of_getLsbD {x : BitVec 64} {j : Nat} (h : x.getLsbD j = true) : clz64 x ≤ 63 - j := by
  have hj : j < 64 := BitVec.lt_of_getLsbD h
  by_contra more
  have clear := getLsbD_eq_false_of_lt_clz64 (not_le.mp more)
  rw [Nat.sub_sub_self (by omega), h] at clear
  exact Bool.noConfusion clear

/-! ## The word whose zeros are counted (R101) -/

/-- The hash without its index bits, with the guard bit below it. -/
def guardedRemainder (h : Hash) (bits : Nat) : BitVec 64 := (h <<< bits) ||| (1#64 <<< (bits - 1))

theorem leadingZeroRun_eq_clz64 (h : Hash) (bits : Nat) : leadingZeroRun h bits = clz64 (guardedRemainder h bits) := rfl

theorem guardedRemainder_guard (h : Hash) {bits : Nat} (hbits : bits ≤ 64) :
    (guardedRemainder h bits).getLsbD (bits - 1) = true := by
  have guard : bits - 1 < 64 := by omega
  simp [guardedRemainder, guard]

theorem guardedRemainder_of_ge (h : Hash) {bits j : Nat} (hbits : 1 ≤ bits) (above : bits ≤ j) (hj : j < 64) :
    (guardedRemainder h bits).getLsbD j = h.getLsbD (j - bits) := by
  have notGuard : j - (bits - 1) ≠ 0 := by omega
  have inHash : j - bits < 64 := by omega
  simp [guardedRemainder, hj, above.not_gt, notGuard, BitVec.getLsbD_eq_getElem inHash]

/-! ## The leading-zero run (R101) -/

section
variable {h : Hash} {bits : Nat} (pos : 1 ≤ bits) (hbits : bits ≤ 64)
include pos hbits

/-- The guard bit stops the count. -/
theorem leadingZeroRun_le : leadingZeroRun h bits ≤ 64 - bits := by
  have stop := clz64_le_of_getLsbD (guardedRemainder_guard h hbits)
  rw [leadingZeroRun_eq_clz64]
  omega

theorem getLsbD_eq_false_of_lt_leadingZeroRun {i : Nat} (hi : i < leadingZeroRun h bits) :
    h.getLsbD (63 - bits - i) = false := by
  have le : leadingZeroRun h bits ≤ 64 - bits := leadingZeroRun_le pos hbits
  have clear : (guardedRemainder h bits).getLsbD (63 - i) = false := getLsbD_eq_false_of_lt_clz64 hi
  rwa [guardedRemainder_of_ge h pos (by omega) (by omega), Nat.sub_right_comm] at clear

theorem getLsbD_eq_true_of_leadingZeroRun_lt (lt : leadingZeroRun h bits < 64 - bits) :
    h.getLsbD (63 - bits - leadingZeroRun h bits) = true := by
  have set : (guardedRemainder h bits).getLsbD (63 - leadingZeroRun h bits) = true :=
    getLsbD_eq_true_of_clz64_lt (lt.trans_le (Nat.sub_le _ _))
  rwa [guardedRemainder_of_ge h pos (by omega) (by omega), Nat.sub_right_comm] at set

end

/-! ## The pair of a hash (R100 to R102) -/

/-- R100: the bucket is the top `bits` bits. -/
theorem bucketIndex_eq_div (h : Hash) (bits : Nat) : bucketIndex h bits = h.toNat / 2 ^ (64 - bits) := by
  rw [bucketIndex, BitVec.toNat_ushiftRight, Nat.shiftRight_eq_div_pow]

/-- Settles O22: the count stops at the guard bit, and above the guard bit the counted word is the hash. -/
theorem hashFrontEndCountsLeadingZeros : Obligations.HashFrontEndCountsLeadingZeros := by
  intro h bits pos le
  have hbits : bits ≤ 64 := le.trans (by decide)
  exact ⟨bucketIndex_eq_div h bits, bucketIndex_lt hbits, leadingZeroRun_le pos hbits,
    fun _ => getLsbD_eq_false_of_lt_leadingZeroRun pos hbits, getLsbD_eq_true_of_leadingZeroRun_lt pos hbits, rfl⟩

/-! ## DECODE_HASH (R104) -/

@[simp] theorem hashData_bucket (b v : Nat) : (hashData b v).extractLsb' 0 16 = BitVec.ofNat 16 b :=
  BitVec.extractLsb'_append_eq_right

@[simp] theorem hashData_value (b v : Nat) : (hashData b v).extractLsb' 16 8 = BitVec.ofNat 8 v := by
  rw [hashData, BitVec.extractLsb'_append_eq_of_le (by decide)]
  exact BitVec.extractLsb'_append_eq_right

@[simp] theorem hashData_zeros (b v : Nat) : (hashData b v).extractLsb' 24 40 = 0#40 := by
  rw [hashData, BitVec.extractLsb'_append_eq_of_le (by decide)]
  exact BitVec.extractLsb'_append_eq_left

theorem exec_decodeHash_of_valid {s : State} (valid : s.valid = true) (h : Hash) :
    exec (.decodeHash h) s = .next (s.deliver ⟨0#4,
      hashData (bucketIndex h s.rep.p.toNat) (registerValue h s.rep.p.toNat), none⟩) :=
  requireValid_of_valid valid _

/-- Settles O23: the bucket and the value of a precision up to 16 fit their fields. -/
theorem decodeHashAnswersBucketAndValue : Obligations.DecodeHashAnswersBucketAndValue := by
  refine fun s h => ⟨fun invalid => requireValid_of_not_valid invalid _, fun valid _ le =>
    ⟨_, exec_decodeHash_of_valid valid h, ?_, ?_, hashData_zeros _ _⟩⟩
  · have fits : bucketIndex h s.rep.p.toNat < 2 ^ 16 :=
      (bucketIndex_lt (le.trans (by decide))).trans_le (Nat.pow_le_pow_right (by decide) le)
    rw [hashData_bucket, BitVec.toNat_ofNat, Nat.mod_eq_of_lt fits]
  · have fits : registerValue h s.rep.p.toNat < 2 ^ 8 := (registerValue_le h _).trans_lt (by decide)
    rw [hashData_value, BitVec.toNat_ofNat, Nat.mod_eq_of_lt fits]

end Machine
end Sys2Proof
end

section
/-! 41_sparse_converter.md R120, R123 to R125: the bucket and the value of a sparse entry. -/

namespace Sys2Proof
namespace Machine

/-! ## bitlen of a quotient (00_scope.md R7) -/

@[simp] theorem bitlen_eq_zero_iff (x : Nat) : bitlen x = 0 ↔ x = 0 := by simp [bitlen]

theorem bitlen_div_two_pow (x k : Nat) : bitlen (x / 2 ^ k) = bitlen x - k := by
  refine eq_of_forall_ge_iff fun n => ?_
  rw [bitlen_le_iff, Nat.div_lt_iff_lt_mul (Nat.two_pow_pos k), ← pow_add, ← bitlen_le_iff, Nat.sub_le_iff_le_add]

/-! ## The zeros of an entry (R123) -/

section
variable {w r : Nat} (v : Nat)

@[simp] theorem entryZeros_zero (w : Nat) : entryZeros w 0 v = w + v := by simp [entryZeros]

theorem entryZeros_of_ne_zero (nonzero : r ≠ 0) : entryZeros w r v = w - bitlen r := if_pos nonzero

/-- One more than the zeros is the place of a nonzero remainder's leading bit, counted from the top of its field. -/
theorem entryZeros_locates (nonzero : r ≠ 0) (fits : r < 2 ^ w) :
    entryZeros w r v + 1 ≤ w ∧ 2 ^ (w - (entryZeros w r v + 1)) ≤ r ∧ r < 2 ^ (w - (entryZeros w r v + 1) + 1) := by
  have pos : bitlen r ≠ 0 := mt (bitlen_eq_zero_iff r).mp nonzero
  have le : bitlen r ≤ w := (bitlen_le_iff r w).mpr fits
  rw [entryZeros_of_ne_zero v nonzero, ← lt_bitlen_iff, ← bitlen_le_iff]
  omega

end

theorem entryV_lt (e : SparseEntry) : entryV e < 2 ^ 6 := BitVec.isLt _

/-- Settles O36: the remainder's leading bit is located by `bitlen`, and V has 6 bits. -/
theorem entryConversion : Obligations.EntryConversion := by
  intro p e pos le
  have hv : entryV e < 2 ^ 6 := entryV_lt e
  have fits : entryIdx e % 2 ^ (26 - p) < 2 ^ (26 - p) := Nat.mod_lt _ (Nat.two_pow_pos _)
  refine ⟨Nat.shiftRight_eq_div_pow _ _, entryBucket_lt (by omega) e, Nat.le_add_left _ _, ?_, fun zero => ?_,
    fun nonzero => entryZeros_locates (entryV e) nonzero fits⟩
  · show entryValue p e ≤ 89
    unfold entryValue entryZeros
    split <;> omega
  · simp [convertEntry, entryValue, zero]

/-! ## The leading-zero run as a bit length (R101) -/

/-- Shifting the index bits and the guard out again leaves the hash's remainder. -/
theorem guardedRemainder_div (h : Hash) {bits : Nat} (pos : 1 ≤ bits) (hbits : bits ≤ 64) :
    (guardedRemainder h bits).toNat / 2 ^ bits = h.toNat % 2 ^ (64 - bits) := by
  refine Nat.eq_of_testBit_eq fun j => ?_
  rw [Nat.testBit_div_two_pow, Nat.testBit_mod_two_pow, BitVec.testBit_toNat, BitVec.testBit_toNat]
  by_cases inside : j < 64 - bits
  · rw [guardedRemainder_of_ge h pos (Nat.le_add_left bits j) (by omega), Nat.add_sub_cancel]
    simp [inside]
  · rw [BitVec.getLsbD_of_ge _ _ (by omega)]
    simp [inside]

theorem leadingZeroRun_eq_sub_bitlen (h : Hash) {bits : Nat} (pos : 1 ≤ bits) (hbits : bits ≤ 64) :
    leadingZeroRun h bits = 64 - bits - bitlen (h.toNat % 2 ^ (64 - bits)) := by
  have guard : bits - 1 < bitlen (guardedRemainder h bits).toNat :=
    (lt_bitlen_iff _ _).mpr (Nat.ge_two_pow_of_testBit (guardedRemainder_guard h hbits))
  rw [leadingZeroRun_eq_clz64, clz64, ← guardedRemainder_div h pos hbits, bitlen_div_two_pow]
  omega

/-! ## The entry of a hash (R120, R125) -/

@[simp] theorem entryIdx_sparseEntry (h : Hash) : entryIdx (sparseEntry h) = bucketIndex h 26 := by
  rw [entryIdx, sparseEntry, BitVec.extractLsb'_append_eq_left, BitVec.toNat_ofNat,
    Nat.mod_eq_of_lt (bucketIndex_lt (by decide))]

@[simp] theorem entryV_sparseEntry (h : Hash) : entryV (sparseEntry h) = leadingZeroRun h 26 := by
  have fits : leadingZeroRun h 26 < 2 ^ 6 := (leadingZeroRun_le (by decide) (by decide)).trans_lt (by decide)
  rw [entryV, sparseEntry, BitVec.extractLsb'_append_eq_right, BitVec.toNat_ofNat, Nat.mod_eq_of_lt fits]

section
variable {p : Nat} (h : Hash)

theorem entryBucket_sparseEntry (le : p ≤ 26) : entryBucket p (sparseEntry h) = bucketIndex h p := by
  have exponent : 64 - p = 38 + (26 - p) := by omega
  rw [entryBucket, entryIdx_sparseEntry, Nat.shiftRight_eq_div_pow, bucketIndex_eq_div, bucketIndex_eq_div,
    Nat.div_div_eq_div_mul, ← pow_add, exponent]

/-- The remainder of the index is the hash's remainder at p without its low 38 bits. -/
theorem bucketIndex_mod (le : p ≤ 26) :
    bucketIndex h 26 % 2 ^ (26 - p) = h.toNat % 2 ^ (64 - p) / 2 ^ 38 := by
  have exponent : 64 - p = 38 + (26 - p) := by omega
  rw [exponent, pow_add, Nat.mod_mul_right_div_self, bucketIndex_eq_div]

/-- R125: above bit 38 the count ends in the index; below it, both counts are over the same 38 bits. -/
theorem entryZeros_sparseEntry (pos : 1 ≤ p) (le : p ≤ 26) :
    entryZeros (26 - p) (h.toNat % 2 ^ (64 - p) / 2 ^ 38) (leadingZeroRun h 26) = leadingZeroRun h p := by
  rw [leadingZeroRun_eq_sub_bitlen h pos (by omega)]
  by_cases low : h.toNat % 2 ^ (64 - p) < 2 ^ 38
  · have same : h.toNat % 2 ^ 38 = h.toNat % 2 ^ (64 - p) := by
      rw [← Nat.mod_mod_of_dvd _ (Nat.pow_dvd_pow 2 (by omega : 38 ≤ 64 - p)), Nat.mod_eq_of_lt low]
    have len : bitlen (h.toNat % 2 ^ (64 - p)) ≤ 38 := (bitlen_le_iff _ _).mpr low
    rw [Nat.div_eq_of_lt low, entryZeros_zero, leadingZeroRun_eq_sub_bitlen h (by decide) (by decide), same]
    omega
  · have len : 38 < bitlen (h.toNat % 2 ^ (64 - p)) := (lt_bitlen_iff _ _).mpr (not_lt.mp low)
    have nonzero : h.toNat % 2 ^ (64 - p) / 2 ^ 38 ≠ 0 := (Nat.div_pos (not_lt.mp low) (by decide)).ne'
    rw [entryZeros_of_ne_zero _ nonzero, bitlen_div_two_pow]
    omega

theorem entryValue_sparseEntry (pos : 1 ≤ p) (le : p ≤ 26) : entryValue p (sparseEntry h) = registerValue h p := by
  rw [entryValue, entryIdx_sparseEntry, entryV_sparseEntry, bucketIndex_mod h le, entryZeros_sparseEntry h pos le,
    registerValue]

end

/-- Settles O37: each entry has the bucket and the value of its hash, so the two folds insert the same pairs. -/
theorem sparseEntryEquivalence : Obligations.SparseEntryEquivalence := by
  intro p pos le
  have bucket (h : Hash) : entryBucket p (sparseEntry h) = bucketIndex h p := entryBucket_sparseEntry h (by omega)
  have value (h : Hash) : entryValue p (sparseEntry h) = registerValue h p := entryValue_sparseEntry h pos (by omega)
  exact ⟨fun h => by rw [convertEntry, bucket, value], fun hs => by simp only [toDense, List.foldl_map, bucket, value]⟩

end Machine
end Sys2Proof
end

section
/-! 41_sparse_converter.md R121, R122: the Sparse v2 image and its parser. -/

namespace Sys2Proof
namespace Machine

/-! ## Bytes of an image (00_scope.md R8) -/

theorem imgByte_append_right (xs ys : Image) (k : Nat) : imgByte (xs ++ ys) (xs.length + k) = imgByte ys k := by
  rw [imgByte, List.getD_append_right _ _ _ _ (Nat.le_add_right _ _), Nat.add_sub_cancel_left, imgByte]

theorem be32_append_right (xs ys : Image) (k : Nat) : be32 (xs ++ ys) (xs.length + k) = be32 ys k := by
  simp only [be32, Nat.add_assoc, imgByte_append_right]

theorem drop_eq_imgByte_cons {img : Image} {k : Nat} (hk : k < img.length) :
    img.drop k = imgByte img k :: img.drop (k + 1) := by
  rw [imgByte, List.getD_eq_getElem _ _ hk, List.drop_eq_getElem_cons]

theorem drop_eq_four_bytes_append {img : Image} {k : Nat} (hk : k + 4 ≤ img.length) :
    img.drop k =
      [imgByte img k, imgByte img (k + 1), imgByte img (k + 2), imgByte img (k + 3)] ++ img.drop (k + 4) := by
  rw [drop_eq_imgByte_cons (by omega), drop_eq_imgByte_cons (by omega), drop_eq_imgByte_cons (by omega),
    drop_eq_imgByte_cons (by omega)]
  rfl

theorem append_bytes (x : BitVec 16) : (x.extractLsb' 8 8 ++ x.extractLsb' 0 8 : BitVec 16) = x :=
  (BitVec.extractLsb'_append_extractLsb'_eq_extractLsb' rfl).trans BitVec.extractLsb'_eq_self

theorem be16_high (img : Image) (k : Nat) : (be16 img k).extractLsb' 8 8 = imgByte img k :=
  BitVec.extractLsb'_append_eq_left

theorem be16_low (img : Image) (k : Nat) : (be16 img k).extractLsb' 0 8 = imgByte img (k + 1) :=
  BitVec.extractLsb'_append_eq_right

/-! ## Entries as bytes (R121) -/

/-- The bytes of an entry, read as a big-endian word, are the entry. -/
theorem be32_entryBytes (e : SparseEntry) (rest : Image) : be32 (entryBytes e ++ rest) 0 = e := by
  have high : (e.extractLsb' 24 8 ++ e.extractLsb' 16 8 : BitVec 16) = e.extractLsb' 16 16 :=
    BitVec.extractLsb'_append_extractLsb'_eq_extractLsb' rfl
  have upper : (e.extractLsb' 16 16 ++ e.extractLsb' 8 8 : BitVec 24) = e.extractLsb' 8 24 :=
    BitVec.extractLsb'_append_extractLsb'_eq_extractLsb' rfl
  have whole : (e.extractLsb' 8 24 ++ e.extractLsb' 0 8 : BitVec 32) = e.extractLsb' 0 32 :=
    BitVec.extractLsb'_append_extractLsb'_eq_extractLsb' rfl
  show (e.extractLsb' 24 8 ++ e.extractLsb' 16 8 : BitVec 16) ++ e.extractLsb' 8 8 ++ e.extractLsb' 0 8 = e
  rw [high]
  exact (congrArg (· ++ e.extractLsb' 0 8) upper).trans (whole.trans BitVec.extractLsb'_eq_self)

theorem be32_append_entryBytes (before rest : Image) (e : SparseEntry) :
    be32 (before ++ (entryBytes e ++ rest)) before.length = e :=
  (be32_append_right before _ 0).trans (be32_entryBytes e rest)

/-- The bytes of the big-endian word at byte k are those of the image. -/
theorem entryBytes_be32 (img : Image) (k : Nat) :
    entryBytes (be32 img k) = [imgByte img k, imgByte img (k + 1), imgByte img (k + 2), imgByte img (k + 3)] := by
  have first : (be32 img k).extractLsb' 24 8 = imgByte img k := by
    rw [be32, BitVec.extractLsb'_append_eq_of_le (by decide), BitVec.extractLsb'_append_eq_of_le (by decide)]
    exact BitVec.extractLsb'_append_eq_left
  have second : (be32 img k).extractLsb' 16 8 = imgByte img (k + 1) := by
    rw [be32, BitVec.extractLsb'_append_eq_of_le (by decide), BitVec.extractLsb'_append_eq_of_le (by decide)]
    exact BitVec.extractLsb'_append_eq_right
  have third : (be32 img k).extractLsb' 8 8 = imgByte img (k + 2) := by
    rw [be32, BitVec.extractLsb'_append_eq_of_le (by decide)]
    exact BitVec.extractLsb'_append_eq_right
  have fourth : (be32 img k).extractLsb' 0 8 = imgByte img (k + 3) := BitVec.extractLsb'_append_eq_right
  rw [entryBytes, first, second, third, fourth]

@[simp] theorem flatMap_entryBytes_length (es : List SparseEntry) : (es.flatMap entryBytes).length = 4 * es.length := by
  induction es with
  | nil => rfl
  | cons e es ih => simp [entryBytes, ih]; omega

@[simp] theorem sparseEntries_length (img : Image) (k n : Nat) : (sparseEntries img k n).length = n := by
  induction n generalizing k with
  | zero => rfl
  | succ n ih => simp [sparseEntries, ih]

/-- Entries written after k others (and the 4 bytes of the header) are read back. -/
theorem sparseEntries_flatMap_entryBytes (es : List SparseEntry) (k : Nat) (before : Image)
    (hk : before.length = 4 + 4 * k) : sparseEntries (before ++ es.flatMap entryBytes) k es.length = es := by
  induction es generalizing k before with
  | nil => rfl
  | cons e es ih =>
    have first : be32 (before ++ (entryBytes e ++ es.flatMap entryBytes)) (4 + 4 * k) = e := by
      rw [← hk, be32_append_entryBytes]
    have later : sparseEntries ((before ++ entryBytes e) ++ es.flatMap entryBytes) (k + 1) es.length = es :=
      ih (k + 1) _ (by simp [entryBytes, hk]; omega)
    rw [List.append_assoc] at later
    rw [List.flatMap_cons, List.length_cons, sparseEntries, first, later]

/-- The n entries read from entry k on are the rest of an image that ends after them. -/
theorem flatMap_entryBytes_sparseEntries {img : Image} {k n : Nat} (hl : img.length = 4 + 4 * (k + n)) :
    (sparseEntries img k n).flatMap entryBytes = img.drop (4 + 4 * k) := by
  induction n generalizing k with
  | zero => simp [sparseEntries, hl]
  | succ n ih =>
    have later : (sparseEntries img (k + 1) n).flatMap entryBytes = img.drop (4 + 4 * k + 4) := ih (by omega)
    rw [sparseEntries, List.flatMap_cons, later, entryBytes_be32, ← drop_eq_four_bytes_append (by omega)]

/-! ## The Sparse v2 image (R121) -/

section
variable (tag p : Byte) (es : List SparseEntry)

@[simp] theorem sparseImage_length : (sparseImage tag p es).length = 4 + 4 * es.length := by
  rw [sparseImage, List.length_append, flatMap_entryBytes_length]
  rfl

@[simp] theorem imgByte_sparseImage_one : imgByte (sparseImage tag p es) 1 = p := rfl

@[simp] theorem be16_sparseImage : be16 (sparseImage tag p es) 2 = BitVec.ofNat 16 es.length := append_bytes _

@[simp] theorem sparseEntries_sparseImage : sparseEntries (sparseImage tag p es) 0 es.length = es :=
  sparseEntries_flatMap_entryBytes es 0 _ rfl

end

/-- An image whose length agrees with its entry count is the Sparse v2 image of what is read from it. -/
theorem eq_sparseImage_of_length {img : Image} (hl : img.length = 4 + 4 * (be16 img 2).toNat) :
    img = sparseImage (imgByte img 0) (BitVec.ofNat 8 (imgByte img 1).toNat)
      (sparseEntries img 0 (be16 img 2).toNat) := by
  simp only [sparseImage, sparseEntries_length, BitVec.ofNat_toNat, BitVec.setWidth_eq, be16_high, be16_low]
  rw [flatMap_entryBytes_sparseEntries (by omega)]
  exact drop_eq_four_bytes_append (k := 0) (by omega)

/-! ## The parser (R122) -/

/-- The one failure that is not FORMAT_CORRUPT is the last check's. -/
theorem parseSparse_unsupported {img : Image} (h : parseSparse img = .error .unsupportedPrecision) :
    (17 ≤ (imgByte img 1).toNat ∧ (imgByte img 1).toNat ≤ 26) ∧ img.length = 4 + 4 * (be16 img 2).toNat ∧
      ascending (sparseEntries img 0 (be16 img 2).toNat) = true := by
  unfold parseSparse at h
  split_ifs at h with short precision length order large <;> cases h
  have bounds : 1 ≤ (imgByte img 1).toNat ∧ (imgByte img 1).toNat ≤ 26 := by simpa [sparsePrecision] using precision
  exact ⟨⟨large, bounds.2⟩, not_not.mp length, by simpa using order⟩

theorem parseSparse_sparseImage (tag : Byte) {p : Nat} {es : List SparseEntry} (pos : 1 ≤ p) (le : p ≤ 26)
    (count : es.length < 65536) (order : ascending es = true) :
    parseSparse (sparseImage tag (BitVec.ofNat 8 p) es) =
      if p ≤ 16 then .ok (p, es) else .error .unsupportedPrecision := by
  have precision : (BitVec.ofNat 8 p).toNat = p := by rw [BitVec.toNat_ofNat, Nat.mod_eq_of_lt (by omega)]
  have number : (BitVec.ofNat 16 es.length).toNat = es.length := by rw [BitVec.toNat_ofNat, Nat.mod_eq_of_lt count]
  rw [← ite_not]
  simp [parseSparse, precision, number, sparsePrecision, pos, le, order]

/-- Settles O38: what the parser reads from an image of the right length is what that image is built from. -/
theorem sparseParserAcceptsExactlySparseImages : Obligations.SparseParserAcceptsExactlySparseImages := by
  refine ⟨fun tag p es => parseSparse_sparseImage tag, fun img p es parses => ?_, fun img st fails => ?_⟩
  · obtain ⟨rfl, ⟨pos, le⟩, length, rfl, order⟩ := parseSparse_ok parses
    exact ⟨pos, le, order, eq_sparseImage_of_length length⟩
  · refine (parseSparse_error fails).imp_right fun unsupported => ⟨unsupported, ?_⟩
    obtain ⟨⟨low, high⟩, length, order⟩ := parseSparse_unsupported (unsupported ▸ fails)
    exact ⟨_, _, low, high, order, eq_sparseImage_of_length length⟩

end Machine
end Sys2Proof
end

section
/-! 42_register_update.md R146 to R148: the baseline raise. -/

namespace Sys2Proof
namespace Machine

/-! ## The loop and what it keeps (R146 to R148) -/

/-- R148: in a pass BASELINE takes 1 from what each bucket has above it, so the value stays. -/
theorem raisePass_excess {D : Dense} (inv : D.Inv) (empty : D.baselineCount = 0#17) (low : D.baseline ≠ 255#8) {b : Nat}
    (hb : b < D.m) :
    ((raisePass D).nibAt b).toNat + (raisePass D).ovf.excessOf b + 1 = (D.nibAt b).toNat + D.ovf.excessOf b := by
  have kept := raisePass_value inv empty low hb
  rw [Dense.value, Dense.value, raisePass_baseline, toNat_add_one_of_ne_max low] at kept
  omega

/-- Settles O32: the invariant and the values are kept by every pass, hence by the loop. -/
theorem raisePreservesValues : Obligations.RaisePreservesValues := fun _ inv =>
  ⟨raiseBaseline_inv inv, fun _ => raiseBaseline_value inv, fun empty low =>
    ⟨toNat_add_one_of_ne_max low, fun _ => raisePass_excess inv empty low⟩⟩

/-- Settles O33: a loop that ends with no bucket at delta 0 has stopped at 255, and every bucket is above it. -/
theorem raiseEndsOrSaturates : Obligations.RaiseEndsOrSaturates := by
  intro D inv empty
  have saturated : (raiseBaseline D).baseline = 255#8 :=
    (raiseBaseline_ends D).resolve_left (by rw [empty]; decide)
  refine ⟨saturated, fun b hb => ?_⟩
  have hb' : b < (raiseBaseline D).m := by rwa [Dense.m, raiseBaseline_p]
  have pos := BitVec.toNat_pos_of_ne_zero ((raiseBaseline_inv inv).nibAt_ne_zero empty hb')
  calc 255 = (raiseBaseline D).baseline.toNat := by rw [saturated]; rfl
    _ < (raiseBaseline D).value b := by rw [Dense.value]; omega
    _ = D.value b := raiseBaseline_value inv hb

/-- R147: at BASELINE 255 no pass is made. -/
theorem raiseBaseline_of_saturated {D : Dense} (top : D.baseline = 255#8) : raiseBaseline D = D := by
  rw [raiseBaseline, top]
  rfl

/-- R146: below 255 the loop tests BASELINE_COUNT and goes on from the pass. -/
theorem raiseBaseline_of_low {D : Dense} (low : D.baseline ≠ 255#8) :
    raiseBaseline D = if D.baselineCount = 0#17 then raiseBaseline (raisePass D) else D := by
  have turns : 255 - D.baseline.toNat = 255 - (raisePass D).baseline.toNat + 1 := by
    rw [raisePass_baseline]
    bv_omega
  rw [raiseBaseline, turns, raiseLoop]
  rfl

/-- Settles O30, by whether BASELINE is 255. -/
theorem raiseIsLoopOfPasses : Obligations.RaiseIsLoopOfPasses := by
  intro D
  by_cases top : D.baseline = 255#8
  · rw [raiseBaseline_of_saturated top, if_neg fun turn => turn.2 top]
  · simp only [raiseBaseline_of_low top, top, ne_eq, not_false_eq_true, and_true]

/-! ## A pass, bucket by bucket (R146) -/

/-- The slot is recorded on bucket b: the test that R146's branches make. -/
def Slot.Holds (o : Slot) (b : Nat) : Prop := o.valid = true ∧ o.bucket.toNat = b

theorem absorbs_iff_holds (o : Slot) (b : Nat) : o.absorbs b = true ↔ o.Holds b ∧ 0 < o.value.toNat := by
  simp [Slot.absorbs, Slot.Holds, and_assoc]

theorem afterPass_of_absorbs {o : Slot} {b : Nat} (h : o.absorbs b = true) :
    o.afterPass = { o with value := o.value - 1#8 } := by
  obtain ⟨⟨valid, -⟩, pos⟩ := (absorbs_iff_holds o b).mp h
  rw [Slot.afterPass, if_pos valid, if_pos pos]

/-- First branch of R146: the slot's excess absorbs the visit. -/
theorem raiseVisit_of_absorbs {E : Dense} {b : Nat} (h : E.ovf.absorbs b = true) :
    raiseVisit E b = { E with ovf := E.ovf.afterPass } := by
  rw [afterPass_of_absorbs h]
  obtain ⟨⟨valid, bucket⟩, pos⟩ := (absorbs_iff_holds E.ovf b).mp h
  exact if_pos ⟨valid, bucket.symm, pos⟩

/-- Second branch of R146: a slot without excess is emptied, and its bucket goes from nibble 15 to 14. -/
theorem raiseVisit_of_holds {E : Dense} {b : Nat} (holds : E.ovf.Holds b) (h : E.ovf.absorbs b = false) :
    raiseVisit E b = { E with nib := E.nib.set b (E.nibAt b - 1#4), ovf := E.ovf.afterPass } := by
  have spent : ¬ 0 < E.ovf.value.toNat := fun pos =>
    Bool.false_ne_true (h ▸ (absorbs_iff_holds E.ovf b).mpr ⟨holds, pos⟩)
  rw [raiseVisit, if_neg fun first => spent first.2.2, if_pos ⟨holds.1, holds.2.symm⟩, Slot.afterPass, if_pos holds.1,
    if_neg spent]

/-- Third branch of R146: any other bucket loses 1 from its nibble, and is counted when that leaves 0. -/
theorem raiseVisit_of_not_holds {E : Dense} {b : Nat} (h : ¬ E.ovf.Holds b) :
    raiseVisit E b = { E with
      nib := E.nib.set b (E.nibAt b - 1#4)
      baselineCount := if E.nibAt b - 1#4 = 0#4 then E.baselineCount + 1#17 else E.baselineCount } := by
  rw [raiseVisit, if_neg fun first => h ⟨first.1, first.2.1.symm⟩, if_neg fun second => h ⟨second.1, second.2.symm⟩]

/-- The nibbles of a pass that has visited the buckets in `done`. -/
def nibAfterVisits (o : Slot) (nib : List Nibble) (done : List Nat) : List Nibble :=
  nib.zipIdx.map fun x => if x.2 ∈ done ∧ o.absorbs x.2 = false then x.1 - 1#4 else x.1

/-- The slot of a pass that has visited the buckets in `done`. -/
def Slot.afterVisits (o : Slot) (done : List Nat) : Slot := if o.bucket.toNat ∈ done then o.afterPass else o

/-- A pass over D that has visited the buckets in `done`, with its zero nibbles counted. -/
def partialPass (D : Dense) (done : List Nat) : Dense where
  p := D.p
  baseline := D.baseline + 1#8
  baselineCount := BitVec.ofNat 17 (zeroCount (nibAfterVisits D.ovf D.nib done))
  nib := nibAfterVisits D.ovf D.nib done
  ovf := D.ovf.afterVisits done

@[simp] theorem nibAfterVisits_length (o : Slot) (nib : List Nibble) (done : List Nat) :
    (nibAfterVisits o nib done).length = nib.length := by simp [nibAfterVisits]

theorem nibAfterVisits_getElem (o : Slot) (nib : List Nibble) (done : List Nat) {c : Nat}
    (h : c < (nibAfterVisits o nib done).length) :
    (nibAfterVisits o nib done)[c] =
      if c ∈ done ∧ o.absorbs c = false then nib[c]'(by simpa using h) - 1#4 else nib[c]'(by simpa using h) := by
  simp [nibAfterVisits]

/-- A bucket that absorbs its visit keeps its nibble. -/
theorem nibAfterVisits_cons_of_absorbs {o : Slot} {b : Nat} (h : o.absorbs b = true) (nib : List Nibble)
    (done : List Nat) : nibAfterVisits o nib (b :: done) = nibAfterVisits o nib done := by
  refine List.ext_getElem (by simp) fun c _ _ => ?_
  simp only [nibAfterVisits_getElem, List.mem_cons]
  refine if_congr (and_congr_left fun keeps => or_iff_right ?_) rfl rfl
  rintro rfl
  exact Bool.false_ne_true (keeps ▸ h)

/-- Any other loses 1. -/
theorem nibAfterVisits_cons_of_not_absorbs {o : Slot} {b : Nat} (h : o.absorbs b = false) {nib : List Nibble}
    (hb : b < nib.length) (done : List Nat) :
    nibAfterVisits o nib (b :: done) = (nibAfterVisits o nib done).set b (nib[b] - 1#4) := by
  refine List.ext_getElem (by simp) fun c _ _ => ?_
  by_cases hc : b = c
  · subst hc
    simp [nibAfterVisits_getElem, h]
  · simp [nibAfterVisits_getElem, List.getElem_set_ne hc, Ne.symm hc]

/-- Before its visit a bucket has the nibble it began with. -/
theorem partialPass_nibAt {D : Dense} {b : Nat} (hb : b < D.nib.length) {done : List Nat} (new : b ∉ done) :
    (partialPass D done).nibAt b = D.nibAt b := by
  rw [nibAt_eq_getElem (by simpa [partialPass] using hb), nibAt_eq_getElem hb]
  simp [partialPass, nibAfterVisits_getElem, new]

/-- The slot does not come to record a bucket in a pass. -/
theorem afterVisits_not_holds {o : Slot} {b : Nat} (h : ¬ o.Holds b) (done : List Nat) :
    ¬ (o.afterVisits done).Holds b := by
  unfold Slot.afterVisits Slot.afterPass
  split_ifs
  · exact h
  · exact fun emptied => Bool.false_ne_true emptied.1
  · exact h
  · exact h

theorem afterPass_of_not_valid {o : Slot} (h : ¬ o.valid = true) : o.afterPass = o := if_neg h

section
variable {o : Slot} {b : Nat} {done : List Nat}

theorem afterVisits_of_holds (holds : o.Holds b) (new : b ∉ done) : o.afterVisits done = o :=
  if_neg (by rwa [holds.2])

theorem afterVisits_cons_of_holds (holds : o.Holds b) : o.afterVisits (b :: done) = o.afterPass :=
  if_pos (by simp [holds.2])

theorem afterVisits_cons_of_not_holds (h : ¬ o.Holds b) : o.afterVisits (b :: done) = o.afterVisits done := by
  unfold Slot.afterVisits
  by_cases valid : o.valid = true
  · exact if_congr (by simp [show o.bucket.toNat ≠ b from fun bucket => h ⟨valid, bucket⟩]) rfl rfl
  · rw [afterPass_of_not_valid valid, ite_self, ite_self]

end

/-- A nibble that was not 0 is counted exactly when the new one is 0. -/
theorem zeroCount_set_of_ne_zero {nib : List Nibble} {b : Nat} (hb : b < nib.length) (nonzero : nib[b] ≠ 0#4)
    (n : Nibble) : zeroCount (nib.set b n) = zeroCount nib + if n = 0#4 then 1 else 0 := by
  simp [zeroCount, List.count_set hb, nonzero]

section
variable {D : Dense} (inv : D.Inv) (empty : D.baselineCount = 0#17)
include inv empty

/-- A visit that the slot does not absorb writes the nibble, and counts it when it becomes 0; no bucket begins the pass
at 0. -/
theorem partialPass_cons_of_not_absorbs {b : Nat} (hb : b < D.m) {done : List Nat} (new : b ∉ done)
    (h : D.ovf.absorbs b = false) :
    partialPass D (b :: done) = { partialPass D done with
      nib := (partialPass D done).nib.set b (D.nibAt b - 1#4)
      baselineCount := if D.nibAt b - 1#4 = 0#4 then (partialPass D done).baselineCount + 1#17
        else (partialPass D done).baselineCount
      ovf := D.ovf.afterVisits (b :: done) } := by
  have nonzero := inv.nibAt_ne_zero empty hb
  have hb' : b < D.nib.length := by obtain ⟨-, len, -⟩ := inv; exact len.symm ▸ hb
  rw [nibAt_eq_getElem hb'] at nonzero ⊢
  simp only [partialPass, Dense.mk.injEq, true_and, and_true, nibAfterVisits_cons_of_not_absorbs h hb']
  rw [zeroCount_set_of_ne_zero (by simpa using hb') (by simpa [nibAfterVisits_getElem, new] using nonzero)]
  split
  · exact BitVec.ofNat_add _ _
  · rfl

/-- One more visit, in each branch of R146. -/
theorem raiseVisit_partialPass {b : Nat} (hb : b < D.m) {done : List Nat} (new : b ∉ done) :
    raiseVisit (partialPass D done) b = partialPass D (b :: done) := by
  have nibAt : (partialPass D done).nibAt b = D.nibAt b := by
    obtain ⟨-, len, -⟩ := inv
    exact partialPass_nibAt (len.symm ▸ hb) new
  have written := partialPass_cons_of_not_absorbs inv empty hb new
  by_cases holds : D.ovf.Holds b
  · have slot : (partialPass D done).ovf = D.ovf := afterVisits_of_holds holds new
    cases absorbs : D.ovf.absorbs b with
    | true =>
      rw [raiseVisit_of_absorbs (by rwa [slot]), slot, partialPass, partialPass,
        nibAfterVisits_cons_of_absorbs absorbs, afterVisits_cons_of_holds holds]
    | false =>
      have stays : D.nibAt b - 1#4 ≠ 0#4 := by
        obtain ⟨-, -, -, full, -⟩ := inv
        rw [← holds.2, (full holds.1).2]
        decide
      rw [raiseVisit_of_holds (by rwa [slot]) (by rwa [slot]), slot, nibAt, written absorbs, if_neg stays,
        afterVisits_cons_of_holds holds]
  · have absorbs : D.ovf.absorbs b = false :=
      Bool.eq_false_iff.mpr fun absorbs => holds ((absorbs_iff_holds _ _).mp absorbs).1
    rw [raiseVisit_of_not_holds (afterVisits_not_holds holds done), nibAt, written absorbs,
      afterVisits_cons_of_not_holds holds]
    rfl

end

/-- A pass that has visited nothing has only incremented BASELINE. -/
theorem partialPass_nil {D : Dense} (inv : D.Inv) : partialPass D [] = { D with baseline := D.baseline + 1#8 } := by
  obtain ⟨-, -, count, -⟩ := inv
  have nib : nibAfterVisits D.ovf D.nib [] = D.nib :=
    List.ext_getElem (by simp) fun c _ _ => by simp [nibAfterVisits_getElem]
  have slot : D.ovf.afterVisits [] = D.ovf := if_neg List.not_mem_nil
  rw [partialPass, nib, slot, ← count, BitVec.ofNat_toNat, BitVec.setWidth_eq]

/-- A pass that has visited every bucket is the model's. -/
theorem partialPass_of_all {D : Dense} (inv : D.Inv) {done : List Nat} (all : ∀ b < D.m, b ∈ done) :
    partialPass D done = raisePass D := by
  obtain ⟨-, len, -, onFile, -⟩ := inv
  have nib : nibAfterVisits D.ovf D.nib done = nibAfterPass D.ovf D.nib := by
    refine List.ext_getElem (by simp) fun c hc _ => ?_
    have mem : c ∈ done := all c (by simpa [len] using hc)
    rw [nibAfterVisits_getElem, nibAfterPass_getElem]
    cases D.ovf.absorbs c <;> simp [mem]
  have slot : D.ovf.afterVisits done = D.ovf.afterPass := by
    by_cases valid : D.ovf.valid = true
    · exact if_pos (all _ (onFile valid).1)
    · rw [Slot.afterVisits, afterPass_of_not_valid valid, ite_self]
  rw [partialPass, nib, slot]
  rfl

/-- Visits of different buckets, one after the other. -/
theorem foldl_raiseVisit {D : Dense} (inv : D.Inv) (empty : D.baselineCount = 0#17) (order : List Nat) :
    ∀ done : List Nat, order.Nodup → (∀ b ∈ order, b < D.m ∧ b ∉ done) →
      order.foldl raiseVisit (partialPass D done) = partialPass D (order.reverse ++ done) := by
  induction order with
  | nil => exact fun _ _ _ => rfl
  | cons b order ih =>
    intro done nodup ahead
    obtain ⟨once, nodup⟩ := List.nodup_cons.mp nodup
    obtain ⟨⟨hb, new⟩, later⟩ := List.forall_mem_cons.mp ahead
    rw [List.foldl_cons, raiseVisit_partialPass inv empty hb new, ih (b :: done) nodup, List.reverse_cons,
      List.append_assoc, List.singleton_append]
    refine fun c hc => ⟨(later c hc).1, ?_⟩
    rw [List.mem_cons, not_or]
    exact ⟨fun same => once (same ▸ hc), (later c hc).2⟩

/-- Settles O31: by induction over the order, as the pass that has visited what has come so far. -/
theorem raiseVisitOrderIsImmaterial : Obligations.RaiseVisitOrderIsImmaterial := by
  intro D order inv empty _ perm
  have mem (b : Nat) : b ∈ order ↔ b < D.m := perm.mem_iff.trans List.mem_range
  rw [← partialPass_nil inv, foldl_raiseVisit inv empty order [] (perm.nodup_iff.mpr List.nodup_range)
    fun b hb => ⟨(mem b).mp hb, List.not_mem_nil⟩]
  exact partialPass_of_all inv fun b hb => by simpa using (mem b).mpr hb

end Machine
end Sys2Proof
end

section
/-! 42_register_update.md R140 to R145, R149: INIT, the max-update and its commands. -/

namespace Sys2Proof
namespace Machine

/-! ## INIT (R140) -/

/-- Settles O24: INIT tests only the precision. -/
theorem initMakesFreshRepresentation : Obligations.InitMakesFreshRepresentation := by
  intro s p
  constructor
  · intro pos le
    refine ⟨_, if_pos (by simp [densePrecision, pos, le]), rfl, toNat_ofNat_precision le, rfl, ?_, rfl, rfl, rfl, rfl,
      rfl, rfl⟩
    exact Nat.mod_eq_of_lt (Nat.pow_lt_pow_right Nat.one_lt_two (by omega))
  · intro illegal
    refine if_neg fun legal => ?_
    have := densePrecision_bounds legal
    omega

/-! ## insert_core (R142) -/

theorem insertCore_of_above {D : Dense} {b v : Nat} (above : D.baseline.toNat + (D.nibAt b).toNat < v) :
    insertCore D b v = raiseIfEmptied D b (writeDelta D b (v - D.baseline.toNat)) := if_neg (not_le.mpr above)

/-- Settles O25: the fields of the write before the raise. -/
theorem insertCoreWritesFields : Obligations.InsertCoreWritesFields := by
  refine fun D b v _ => ⟨fun low => if_pos low, fun above =>
    ⟨writeDelta D b (v - D.baseline.toNat), rfl, rfl, rfl, slotAfterDelta_of_wins b, slotAfterDelta_eq_self b, ?_, ?_⟩⟩
  · exact fun nonzero => ⟨if_neg nonzero, (insertCore_of_above above).trans (if_neg fun emptied => nonzero emptied.1)⟩
  · exact fun zero => ⟨if_pos zero, by rw [insertCore_of_above above, raiseIfEmptied]; simp only [zero, true_and]⟩

/-- An update whose bucket's nibble is not 0, or is not the last 0, does not raise. -/
theorem insertCore_cases_of_no_raise {D : Dense} {b : Nat} (stays : D.nibAt b ≠ 0#4 ∨ D.baselineCount ≠ 1#17)
    (v : Nat) :
    insertCore D b v = D ∨
      (D.baseline.toNat + (D.nibAt b).toNat < v ∧ insertCore D b v = writeDelta D b (v - D.baseline.toNat)) := by
  rcases insertCore_cases D b v with ⟨-, eq⟩ | ⟨above, -, eq⟩ | ⟨-, ⟨zero, emptied⟩, -⟩
  · exact .inl eq
  · exact .inr ⟨above, eq⟩
  · rw [writeDelta, if_pos zero] at emptied
    exact absurd (sub_eq_zero.mp emptied) (stays.resolve_left (not_not.mpr zero))

/-- Settles O29, from the two things left to do. -/
theorem updateWithoutRaiseTouchesOneBucket : Obligations.UpdateWithoutRaiseTouchesOneBucket := by
  rintro D b v ⟨-, len, -⟩ hb stays
  rcases insertCore_cases_of_no_raise stays v with eq | ⟨above, eq⟩ <;> rw [eq]
  · exact ⟨rfl, rfl, fun _ _ => rfl, fun _ => rfl, fun _ => rfl⟩
  · exact ⟨rfl, rfl, fun c hc => (writeDelta_nibAt D _ c (len.symm ▸ hb)).trans (if_neg hc),
      fun nonzero => if_neg nonzero, fun low => slotAfterDelta_eq_self b (by omega)⟩

/-! ## Values (R149) -/

/-- The bucket that takes the slot has the whole excess, and every other bucket has none. -/
theorem slotAfterDelta_excessOf_of_wins {o : Slot} {b delta : Nat} (hb : b < 2 ^ 16) (fits : delta ≤ 255)
    (wins : 15 + o.value.toNat < delta) (c : Nat) :
    (slotAfterDelta o b delta).excessOf c = if b = c then delta - 15 else 0 := by
  have bucket : b % 65536 = b := Nat.mod_eq_of_lt hb
  have excess : (delta - 15) % 256 = delta - 15 := Nat.mod_eq_of_lt (by omega)
  simp [slotAfterDelta_of_wins b wins, Slot.excessOf, bucket, excess]

section
variable {D : Dense} (inv : D.Inv) {b : Nat} (hb : b < D.m)
include inv hb

/-- R149: the written bucket has the delta, or, when its excess loses, what the nibble 15 gives it. -/
theorem writeDelta_value_self {delta : Nat} (above : (D.nibAt b).toNat < delta) (fits : delta ≤ 255) :
    (writeDelta D b delta).value b =
      if 15 < delta ∧ delta - 15 ≤ D.ovf.value.toNat then max (D.value b) (D.baseline.toNat + 15)
      else max (D.value b) (D.baseline.toNat + delta) := by
  have hlen := inv.length_le
  have nib := writeDelta_nibAt_self inv hb delta
  have excess := excessOf_le_value D.ovf b
  have full : 0 < D.ovf.excessOf b → (D.nibAt b).toNat = 15 := fun h => nibAt_eq_fifteen_iff.mp (inv.nibAt_eq_fifteen h)
  have small := (D.nibAt b).isLt
  obtain ⟨-, len, -⟩ := inv
  rw [Dense.value, Dense.value, nib, writeDelta_baseline, writeDelta_ovf]
  by_cases wins : 15 + D.ovf.value.toNat < delta
  · rw [slotAfterDelta_excessOf_of_wins (by omega) fits wins, if_pos rfl, if_neg (by omega)]
    omega
  · rw [slotAfterDelta_eq_self b (not_lt.mp wins)]
    split <;> omega

/-- R149: a bucket that another one displaces from the slot keeps its nibble 15 and loses its excess. -/
theorem writeDelta_value_of_ne {delta : Nat} (fits : delta ≤ 255) {c : Nat} (hc : c ≠ b) :
    (writeDelta D b delta).value c =
      if 15 + D.ovf.value.toNat < delta ∧ D.ovf.valid = true ∧ D.ovf.bucket.toNat = c then D.baseline.toNat + 15
      else D.value c := by
  have hlen := inv.length_le
  obtain ⟨-, len, -, slot, -⟩ := inv
  rw [Dense.value, writeDelta_nibAt D delta c (len.symm ▸ hb), if_neg hc, writeDelta_baseline, writeDelta_ovf]
  by_cases wins : 15 + D.ovf.value.toNat < delta
  · rw [slotAfterDelta_excessOf_of_wins (by omega) fits wins, if_neg hc.symm]
    by_cases held : D.ovf.valid = true ∧ D.ovf.bucket.toNat = c
    · rw [if_pos ⟨wins, held⟩, ← held.2, (slot held.1).2]
      rfl
    · rw [if_neg fun displaced => held displaced.2, Dense.value, Slot.excessOf, if_neg held]
  · rw [slotAfterDelta_eq_self b (not_lt.mp wins), if_neg fun displaced => wins displaced.1, Dense.value]

end

/-- Settles O28: the raise keeps the values that the write has made. -/
theorem maxUpdateValues : Obligations.MaxUpdateValues := by
  intro D b v inv hb hv
  by_cases low : v ≤ D.baseline.toNat + (D.nibAt b).toNat
  · have small := (D.nibAt b).isLt
    have has : v ≤ D.value b := low.trans (Nat.le_add_right _ _)
    rw [(insertCore_eq_self_iff inv hb hv).mpr (.inl has)]
    exact ⟨by rw [if_neg (by omega), max_eq_left has], fun c _ _ => by rw [if_neg (by omega)]⟩
  · have above := not_le.mp low
    refine ⟨?_, fun c hc ne => ?_⟩
    · rw [insertCore_value inv hb above hb, writeDelta_value_self inv hb (by omega) (by omega),
        Nat.add_sub_cancel' (by omega)]
      exact if_congr (by omega) rfl rfl
    · rw [insertCore_value inv hb above hc, writeDelta_value_of_ne inv hb (by omega) ne]
      exact if_congr (and_congr_left' (by omega)) rfl rfl

/-! ## INSERT and INSERT_HASH (R143 to R145) -/

@[simp] theorem updateData_bucket (c : Bool) (b v : Nat) : (updateData c b v).extractLsb' 0 16 = BitVec.ofNat 16 b :=
  BitVec.extractLsb'_append_eq_right

@[simp] theorem updateData_value (c : Bool) (b v : Nat) : (updateData c b v).extractLsb' 16 8 = BitVec.ofNat 8 v := by
  rw [updateData, BitVec.extractLsb'_append_eq_of_le (by decide)]
  exact BitVec.extractLsb'_append_eq_right

@[simp] theorem updateData_zeros (c : Bool) (b v : Nat) : (updateData c b v).extractLsb' 25 39 = 0#39 := by
  rw [updateData, BitVec.extractLsb'_append_eq_of_le (by decide), BitVec.extractLsb'_append_eq_of_le (by decide)]
  exact BitVec.extractLsb'_append_eq_left

/-- R145: the `changed` bit compares every field but P, which no update writes. -/
theorem changed_iff {D E : Dense} (same : E.p = D.p) : changed D E = true ↔ E ≠ D := by
  cases D
  cases E
  cases same
  rw [ne_comm]
  simp only [changed, ne_eq, Bool.or_eq_true, decide_eq_true_eq, Dense.mk.injEq, not_and_or, or_assoc, not_true,
    false_or]

theorem exec_insert_of_legal {s : State} (valid : s.valid = true) {bucket : BitVec 16} (legal : bucket.toNat < s.rep.m)
    (value : BitVec 8) : exec (.insert bucket value) s = insertDecoded bucket.toNat value.toNat s :=
  (requireValid_of_valid valid _).trans (if_pos (decide_eq_true legal))

/-- Settles O26: INSERT checks VALID, then the bucket. -/
theorem insertUpdatesAndAnswers : Obligations.InsertUpdatesAndAnswers := by
  intro s bucket value
  refine ⟨fun invalid => requireValid_of_not_valid invalid _, fun valid beyond => ?_, fun valid legal =>
    ⟨_, exec_insert_of_legal valid legal value, by simp, by simp, by simp, ?_⟩⟩
  · exact (requireValid_of_valid valid _).trans (if_neg fun legal => (of_decide_eq_true legal).not_ge beyond)
  · rw [updateData_changed]
    exact changed_iff (insertCore_p _ _ _)

/-- Settles O27: the hash's bucket is below m, and both its numbers fit INSERT's fields. -/
theorem insertHashIsInsertOfDecodedHash : Obligations.InsertHashIsInsertOfDecodedHash := by
  refine fun s h => ⟨fun invalid => requireValid_of_not_valid invalid _, fun valid _ le => ⟨?_, ?_⟩⟩
  · have legal : bucketIndex h s.rep.p.toNat < s.rep.m := bucketIndex_lt (le.trans (by decide))
    have bucket : (BitVec.ofNat 16 (bucketIndex h s.rep.p.toNat)).toNat = bucketIndex h s.rep.p.toNat :=
      Nat.mod_eq_of_lt (legal.trans_le (Dense.m_le le))
    have value : (BitVec.ofNat 8 (registerValue h s.rep.p.toNat)).toNat = registerValue h s.rep.p.toNat :=
      Nat.mod_eq_of_lt ((registerValue_le h _).trans_lt (by decide))
    rw [exec_insertHash_of_valid valid, exec_insert_of_legal valid (bucket.symm ▸ legal), bucket, value]
  · exact ⟨_, exec_insertHash_of_valid valid h⟩

end Machine
end Sys2Proof
end

section
/-! 00_scope.md R9: binary64 values that rounding keeps, and bounds by powers of two that every operation keeps. -/

namespace Sys2Proof
namespace Machine

/-! ## Values that rounding keeps -/

/-- Stated for every exponent, as `one_shiftLeft_eq_two_pow` is. -/
theorem two_pow_le_one_shiftLeft {i n : Nat} (hi : i ≤ n) : 2 ^ i ≤ 1 <<< n := by
  rw [one_shiftLeft_eq_two_pow]
  exact Nat.pow_le_pow_right Nat.two_pos hi

theorem two_pow_lt_unitsLimit {i : Nat} (hi : i < 2098) : 2 ^ i < unitsLimit :=
  (Nat.pow_lt_pow_right Nat.one_lt_two (Nat.lt_succ_self i)).trans_le (two_pow_le_one_shiftLeft hi)

theorem representable_natCast_iff (a : Nat) :
    representable a = true ↔ a < unitsLimit ∧ 2 ^ (bitlen a - 53) ∣ a := by
  simp only [representable, Bool.and_eq_true, decide_eq_true_eq, Int.natAbs_natCast, Nat.dvd_iff_mod_eq_zero]

/-- A number of at most 53 bits followed by zeros is a binary64 value. -/
theorem representable_mul_two_pow {c e : Nat} (hc : c ≤ 2 ^ 53) (he : e < 2045) :
    representable (c * 2 ^ e : Nat) = true := by
  obtain ⟨c', significand, -⟩ := exists_significand hc e
  have bound : c * 2 ^ e ≤ 2 ^ (53 + e) := pow_add 2 53 e ▸ Nat.mul_le_mul_right _ hc
  exact (representable_natCast_iff _).mpr
    ⟨bound.trans_lt (two_pow_lt_unitsLimit (by omega)), Dvd.intro_left c' significand.symm⟩

theorem representable_two_pow {i : Nat} (hi : i < 2045) : representable (2 ^ i : Nat) = true := by
  simpa only [one_mul] using representable_mul_two_pow (c := 1) Nat.one_le_two_pow hi

/-- The places dropped of a binary64 magnitude are zeros. -/
theorem roundMagnitude_of_dvd {a : Nat} (h : 2 ^ (bitlen a - 53) ∣ a) : roundMagnitude a 1 = a := by
  obtain ⟨q, hq⟩ := h
  have place : lastPlace a 1 = bitlen a - 53 := by rw [lastPlace, Nat.div_one]
  have exact : roundHalfEven a (2 ^ (bitlen a - 53)) = q :=
    (congrArg (roundHalfEven · _) hq).trans (roundHalfEven_exact q (Nat.two_pow_pos _))
  rw [roundMagnitude, place, one_mul, exact, mul_comm, ← hq]

theorem flUnits_of_representable {a : Nat} (h : representable a = true) : flUnits a 1 = .fin a := by
  obtain ⟨limit, zeros⟩ := (representable_natCast_iff a).mp h
  refine (flUnits_eq_fin_iff _ _ _).mpr ?_
  rw [Int.natAbs_natCast, roundMagnitude_of_dvd zeros, if_neg (Int.natCast_nonneg a).not_gt]
  exact ⟨limit, rfl⟩

section
variable (a b : Nat)

theorem add64_natCast : add64 (.fin a) (.fin b) = flUnits ((a + b : Nat) : Int) 1 := by
  rw [Nat.cast_add, add64]

theorem mul64_natCast : mul64 (.fin a) (.fin b) = flUnits ((a * b : Nat) : Int) unitsInOne := by
  rw [Nat.cast_mul, mul64]

theorem fl_natCast : fl a b = flUnits ((a * unitsInOne : Nat) : Int) b := by
  rw [Nat.cast_mul, fl]

theorem div64_natCast {b : Nat} (hb : 0 < b) : div64 (.fin a) (.fin b) = fl a b := by
  rw [div64, if_neg (by exact_mod_cast hb.ne'), if_neg (Int.natCast_nonneg b).not_gt, Int.natAbs_natCast, fl]

end

/-- Whole numbers of at most 53 bits are exact. -/
theorem natTo64_eq {n : Nat} (hn : n ≤ 2 ^ 53) : natTo64 n = .fin (n * unitsInOne : Nat) := by
  have exact := representable_mul_two_pow hn (e := 1074) (by decide)
  rw [← unitsInOne_eq] at exact
  rw [natTo64, fl_natCast, flUnits_of_representable exact]

/-- The quotient of a count and a power of two is exact (43_cardinality.md R171). -/
theorem div64_natTo64_two_pow {c p : Nat} (hc : c ≤ 2 ^ 53) (hp : p ≤ 53) :
    div64 (natTo64 c) (natTo64 (2 ^ p)) = .fin (c * 2 ^ (1074 - p) : Nat) := by
  have pos : 0 < 2 ^ p * unitsInOne := Nat.mul_pos (Nat.two_pow_pos p) unitsInOne_pos
  have units : unitsInOne = 2 ^ (1074 - p) * 2 ^ p := by rw [unitsInOne_eq, ← pow_add, Nat.sub_add_cancel (by omega)]
  rw [natTo64_eq hc, natTo64_eq (Nat.pow_le_pow_right Nat.two_pos hp), div64_natCast _ pos, fl_natCast,
    ← flUnits_of_representable (representable_mul_two_pow hc (by omega))]
  have scaled : c * unitsInOne * unitsInOne = c * 2 ^ (1074 - p) * (2 ^ p * unitsInOne) := by
    rw [mul_assoc, mul_assoc, ← mul_assoc (2 ^ _), ← units]
  rw [scaled, Nat.cast_mul, ← flUnits_scale _ 1 pos, one_mul]

theorem mul64_zero64 (a : Int) : mul64 (.fin a) zero64 = zero64 :=
  calc mul64 (.fin a) zero64 = flUnits (a * 0) unitsInOne := by rw [zero64, mul64]
    _ = flUnits (0 : Nat) 1 := flUnits_eq_of_ratio_eq unitsInOne_pos Nat.one_pos (by simp)
    _ = zero64 := flUnits_of_representable (by decide)

/-! ## Bounds by powers of two -/

section
variable {a d k : Nat} (hd : 0 < d) (hk : representable k = true)
include hd hk

/-- No binary64 magnitude lies between a / d and its rounding. -/
theorem le_roundMagnitude (h : d * k ≤ a) : k ≤ roundMagnitude a d := by
  by_contra! below
  have near := (roundMagnitude_nearest a hd hk (by exact_mod_cast below.ne')).1
  have := Nat.mul_lt_mul_of_pos_left below hd
  rw [← Nat.cast_mul, ← Nat.cast_mul, mul_comm _ d, mul_comm _ d] at near
  omega

theorem roundMagnitude_le (h : a ≤ d * k) : roundMagnitude a d ≤ k := by
  by_contra! above
  have near := (roundMagnitude_nearest a hd hk (by exact_mod_cast above.ne)).1
  have := Nat.mul_lt_mul_of_pos_left above hd
  rw [← Nat.cast_mul, ← Nat.cast_mul, mul_comm _ d, mul_comm _ d] at near
  omega

end

/-- x is finite, with 2^i to 2^j units. -/
def Within (x : Binary64) (i j : Nat) : Prop := ∃ n : Nat, x = .fin n ∧ 2 ^ i ≤ n ∧ n ≤ 2 ^ j

theorem Within.mono {x : Binary64} {i j k l : Nat} (h : Within x i j) (hi : k ≤ i) (hj : j ≤ l) : Within x k l := by
  obtain ⟨n, eq, low, high⟩ := h
  exact ⟨n, eq, (Nat.pow_le_pow_right Nat.two_pos hi).trans low, high.trans (Nat.pow_le_pow_right Nat.two_pos hj)⟩

/-- A quotient keeps its bounds when it is rounded. -/
theorem flUnits_within {a d i j : Nat} (hd : 0 < d) (low : d * 2 ^ i ≤ a) (high : a ≤ d * 2 ^ j) (hj : j < 2045) :
    Within (flUnits a d) i j := by
  have hi : i ≤ j := (Nat.pow_le_pow_iff_right Nat.one_lt_two).mp (Nat.le_of_mul_le_mul_left (low.trans high) hd)
  have low' := le_roundMagnitude hd (representable_two_pow (hi.trans_lt hj)) low
  have high' := roundMagnitude_le hd (representable_two_pow hj) high
  refine ⟨roundMagnitude a d, (flUnits_eq_fin_iff _ _ _).mpr ?_, low', high'⟩
  rw [Int.natAbs_natCast, if_neg (Int.natCast_nonneg a).not_gt]
  exact ⟨high'.trans_lt (two_pow_lt_unitsLimit (by omega)), rfl⟩

theorem unitsInOne_mul_two_pow (n : Nat) : unitsInOne * 2 ^ n = 2 ^ (1074 + n) := by rw [unitsInOne_eq, pow_add]

theorem two_pow_le_unitsInOne {i : Nat} (hi : i ≤ 1074) : 2 ^ i ≤ unitsInOne :=
  two_pow_le_one_shiftLeft hi

/-- `fl` of a number between 2^-i and 2^j. -/
theorem fl_within {a d i j k : Nat} (hd : 0 < d) (low : d ≤ a * 2 ^ i) (high : a ≤ d * 2 ^ j) (hk : i + k ≤ 1074)
    (hj : j < 971) : Within (fl a d) k (1074 + j) := by
  rw [fl_natCast]
  refine flUnits_within hd ?_ ?_ (by omega)
  · calc d * 2 ^ k ≤ a * 2 ^ i * 2 ^ k := Nat.mul_le_mul_right _ low
      _ = a * 2 ^ (i + k) := by rw [mul_assoc, pow_add]
      _ ≤ a * unitsInOne := Nat.mul_le_mul_left a (two_pow_le_unitsInOne hk)
  · calc a * unitsInOne ≤ d * 2 ^ j * unitsInOne := Nat.mul_le_mul_right _ high
      _ = d * 2 ^ (1074 + j) := by rw [mul_assoc, mul_comm _ unitsInOne, unitsInOne_mul_two_pow]

section
variable {x y : Binary64} {i j i' j' k l : Nat} (hx : Within x i j) (hy : Within y i' j') (hl : l < 2045)
include hx hy hl

theorem add64_within (hi : k ≤ i) (hj : j < l) (hj' : j' < l) : Within (add64 x y) k l := by
  obtain ⟨a, rfl, lowa, higha⟩ := hx
  obtain ⟨b, rfl, -, highb⟩ := hy
  have half : 2 ^ l = 2 ^ (l - 1) + 2 ^ (l - 1) := by rw [← mul_two, ← pow_succ, Nat.sub_add_cancel (by omega)]
  rw [add64_natCast]
  refine flUnits_within Nat.one_pos ?_ ?_ hl <;> rw [one_mul]
  · calc 2 ^ k ≤ 2 ^ i := Nat.pow_le_pow_right Nat.two_pos hi
      _ ≤ a + b := lowa.trans (Nat.le_add_right a b)
  · rw [half]
    exact Nat.add_le_add (higha.trans (Nat.pow_le_pow_right Nat.two_pos (by omega)))
      (highb.trans (Nat.pow_le_pow_right Nat.two_pos (by omega)))

theorem mul64_within (hi : 1074 + k ≤ i + i') (hjl : j + j' ≤ 1074 + l) : Within (mul64 x y) k l := by
  obtain ⟨a, rfl, lowa, higha⟩ := hx
  obtain ⟨b, rfl, lowb, highb⟩ := hy
  rw [mul64_natCast]
  refine flUnits_within unitsInOne_pos ?_ ?_ hl
  · calc unitsInOne * 2 ^ k = 2 ^ (1074 + k) := unitsInOne_mul_two_pow k
      _ ≤ 2 ^ (i + i') := Nat.pow_le_pow_right Nat.two_pos hi
      _ = 2 ^ i * 2 ^ i' := pow_add 2 i i'
      _ ≤ a * b := Nat.mul_le_mul lowa lowb
  · calc a * b ≤ 2 ^ j * 2 ^ j' := Nat.mul_le_mul higha highb
      _ = 2 ^ (j + j') := (pow_add 2 j j').symm
      _ ≤ 2 ^ (1074 + l) := Nat.pow_le_pow_right Nat.two_pos hjl
      _ = unitsInOne * 2 ^ l := (unitsInOne_mul_two_pow l).symm

theorem div64_within (hi : k + j' ≤ 1074 + i) (hjl : 1074 + j ≤ l + i') : Within (div64 x y) k l := by
  obtain ⟨a, rfl, lowa, higha⟩ := hx
  obtain ⟨b, rfl, lowb, highb⟩ := hy
  have hb : 0 < b := (Nat.two_pow_pos i').trans_le lowb
  rw [div64_natCast a hb, fl_natCast, mul_comm a]
  refine flUnits_within hb ?_ ?_ hl
  · calc b * 2 ^ k ≤ 2 ^ j' * 2 ^ k := Nat.mul_le_mul_right _ highb
      _ = 2 ^ (k + j') := by rw [mul_comm, pow_add]
      _ ≤ 2 ^ (1074 + i) := Nat.pow_le_pow_right Nat.two_pos hi
      _ = unitsInOne * 2 ^ i := (unitsInOne_mul_two_pow i).symm
      _ ≤ unitsInOne * a := Nat.mul_le_mul_left _ lowa
  · calc unitsInOne * a ≤ unitsInOne * 2 ^ j := Nat.mul_le_mul_left _ higha
      _ = 2 ^ (1074 + j) := unitsInOne_mul_two_pow j
      _ ≤ 2 ^ (l + i') := Nat.pow_le_pow_right Nat.two_pos hjl
      _ = 2 ^ i' * 2 ^ l := by rw [mul_comm, pow_add]
      _ ≤ b * 2 ^ l := Nat.mul_le_mul_right _ lowb

end

end Machine
end Sys2Proof
end

section
/-! 43_cardinality.md R170 to R175, R177: the regime test, the raw estimate, the rounding, and CARDINALITY. -/

namespace Sys2Proof
namespace Machine

/-! ## The regime (R171) -/

theorem smallRegime_iff (D : Dense) :
    smallRegime D = true ↔ D.baseline = 0#8 ∧ 2 * D.m < 5 * D.baselineCount.toNat := by
  simp [smallRegime]

/-- The significand of `fl(0.4)`: 2^54 * 0.4 is 7205759403792793.6. -/
theorem fl_two_fifths : fl 4 10 = .fin (7205759403792794 * 2 ^ 1020 : Nat) := by decide +kernel

/-- No fraction with a denominator of at most 2^16 lies between 0.4 and `fl(0.4)`. -/
theorem fl_two_fifths_lt_iff {c p : Nat} (hp : p ≤ 16) :
    lt64 (fl 4 10) (.fin (c * 2 ^ (1074 - p) : Nat)) = true ↔ 2 * 2 ^ p < 5 * c := by
  have small : 2 ^ p ≤ 2 ^ 16 := Nat.pow_le_pow_right Nat.two_pos hp
  have units : 2 ^ (1074 - p) * 2 ^ p = 2 ^ 54 * 2 ^ 1020 := by
    rw [← pow_add, ← pow_add, Nat.sub_add_cancel (by omega)]
  rw [fl_two_fifths, lt64, decide_eq_true_eq, Nat.cast_lt, ← Nat.mul_lt_mul_right (Nat.two_pow_pos p), mul_assoc c,
    units, mul_right_comm, ← mul_assoc, Nat.mul_lt_mul_right (Nat.two_pow_pos _)]
  omega

/-- Settles O51: the quotient is exact, and it lies above `fl(0.4)` exactly when it lies above 0.4. -/
theorem regimeTestIsExact : Obligations.RegimeTestIsExact := by
  intro D
  refine ⟨smallRegime_iff D, fun small => ?_, fun hp hc => ?_⟩
  · have := ((smallRegime_iff D).mp small).2
    omega
  · have hm := Dense.m_le hp
    rw [smallRegime_iff, Dense.m, div64_natTo64_two_pow (by omega) (by omega), fl_two_fifths_lt_iff hp]

/-! ## The raw estimate (R173 to R175) -/

theorem natTo64_two_pow_within {p : Nat} (hp : p ≤ 32) : Within (natTo64 (2 ^ p)) 1074 (1074 + p) :=
  fl_within (i := 0) Nat.one_pos (Nat.mul_pos (Nat.two_pow_pos p) Nat.one_pos) (one_mul _).ge le_rfl (by omega)

theorem fl_within_half_one {a d : Nat} (hd : 0 < d) (low : d ≤ a * 2) (high : a ≤ d) : Within (fl a d) 1073 1074 :=
  fl_within (i := 1) (j := 0) hd low (high.trans_eq (mul_one d).symm) le_rfl (by decide)

/-- R174: the constants lie between 1/2 and 1, and 1 + 1.079/m between 1/2 and 4. -/
theorem alpha_within {p : Nat} (hp : p ≤ 16) : Within (alpha p) 1071 1075 := by
  unfold alpha
  split_ifs
  · exact (fl_within_half_one (a := 673) (by decide) (by decide) (by decide)).mono (by decide) (by decide)
  · exact (fl_within_half_one (a := 697) (by decide) (by decide) (by decide)).mono (by decide) (by decide)
  · exact (fl_within_half_one (a := 709) (by decide) (by decide) (by decide)).mono (by decide) (by decide)
  · have numerator := fl_within_half_one (a := 7213) (d := 10000) (by decide) (by decide) (by decide)
    have one := fl_within_half_one (a := 1) (d := 1) (by decide) (by decide) (by decide)
    have constant : Within (fl 1079 1000) 1074 1075 :=
      fl_within (a := 1079) (i := 0) (j := 1) (by decide) (by decide) (by decide) le_rfl (by decide)
    have quotient := div64_within (k := 1058) (l := 1075) constant (natTo64_two_pow_within (hp.trans (by decide)))
      (by decide) (by omega) (by decide)
    have denominator := add64_within (k := 1073) (l := 1076) one quotient (by decide) le_rfl (by decide) (by decide)
    exact div64_within numerator denominator (by decide) (by decide) (by decide)

/-- Each term lies between 1 and 2^n. -/
theorem sum_two_pow_sub_bounds (n : Nat) (values : List Nat) :
    values.length ≤ (values.map fun v => 2 ^ (n - v)).sum ∧
    (values.map fun v => 2 ^ (n - v)).sum ≤ values.length * 2 ^ n := by
  have low := List.card_nsmul_le_sum (values.map fun v => 2 ^ (n - v)) 1
    (List.forall_mem_map.mpr fun v _ => Nat.one_le_two_pow)
  have high := List.sum_le_card_nsmul (values.map fun v => 2 ^ (n - v)) (2 ^ n)
    (List.forall_mem_map.mpr fun v _ => Nat.pow_le_pow_right Nat.two_pos (Nat.sub_le n v))
  rw [List.length_map, smul_eq_mul] at low high
  exact ⟨(mul_one _).ge.trans low, high⟩

/-- R173: S lies in [m * 2^-525, m]. -/
theorem harmonicUnits_bounds (values : List Nat) :
    values.length ≤ harmonicUnits values ∧ harmonicUnits values ≤ values.length * 2 ^ 525 :=
  sum_two_pow_sub_bounds 525 values

theorem harmonicSum_within {D : Dense} (inv : D.Inv) : Within (harmonicSum D) 549 1090 := by
  obtain ⟨⟨-, hp⟩, len, -⟩ := inv
  obtain ⟨low, high⟩ := harmonicUnits_bounds D.values
  rw [values_length, len] at low high
  have some0 : 1 ≤ harmonicUnits D.values := (Nat.two_pow_pos D.p.toNat).trans_le low
  refine fl_within (i := 525) (j := 16) (pow_pos Nat.two_pos 525) (Nat.le_mul_of_pos_left _ some0) ?_ le_rfl (by decide)
  rw [mul_comm]
  exact high.trans (Nat.mul_le_mul_right _ (Dense.m_le hp))

theorem rawEstimate_within {D : Dense} (inv : D.Inv) : Within (rawEstimate D) 1055 1632 := by
  have sum := harmonicSum_within inv
  obtain ⟨⟨-, hp⟩, -⟩ := inv
  have square : Within (natTo64 (D.m * D.m)) 1074 (1074 + (D.p.toNat + D.p.toNat)) := by
    rw [Dense.m, ← pow_add]
    exact natTo64_two_pow_within (by omega)
  have product := mul64_within (k := 1071) (l := 1107) (alpha_within hp) square (by decide) (by decide) (by omega)
  exact div64_within product sum (by decide) (by decide) (by decide)

/-- Settles O52, from the bounds of alpha, m * m and S. -/
theorem rawEstimateIsPositiveFinite : Obligations.RawEstimateIsPositiveFinite := by
  intro D inv
  obtain ⟨n, eq, low, -⟩ := rawEstimate_within inv
  exact ⟨n, Nat.cast_pos.mpr ((Nat.two_pow_pos _).trans_le low), eq⟩

/-- Settles O53: the definition, and the four values evaluated. -/
theorem alphaConstants : Obligations.AlphaConstants := by
  refine ⟨if_pos rfl, ?_, ?_, fun p h4 h5 h6 => ?_, by decide +kernel⟩
  · rw [alpha, if_neg (by decide), if_pos rfl]
  · rw [alpha, if_neg (by decide), if_neg (by decide), if_pos rfl]
  · rw [alpha, if_neg h4, if_neg h5, if_neg h6]

/-! ## The rounding (R177) -/

/-- n units and a half are (2 n + U) / (2 U), with U units in 1. -/
theorem floorHalf_eq_floor (n : Int) : floorHalf n = ⌊(n : ℚ) / 2 ^ 1074 + 1 / 2⌋ := by
  have pos : (unitsInOne : ℚ) ≠ 0 := Nat.cast_ne_zero.mpr unitsInOne_pos.ne'
  have quotient : (n : ℚ) / unitsInOne + 1 / 2 = (2 * n + unitsInOne : Int) / (2 * unitsInOne : Nat) := by
    push_cast
    field_simp
  rw [← unitsInOne_cast_rat, quotient, Rat.floor_intCast_div_natCast, floorHalf, Nat.cast_mul, Nat.cast_ofNat]

theorem clamp64_bounds (x : Int) : -2 ^ 63 ≤ clamp64 x ∧ clamp64 x < 2 ^ 63 := by
  unfold clamp64
  omega

/-- Settles O55: the clamped integer fits 64 bits. -/
theorem roundingHalfUpClamped : Obligations.RoundingHalfUpClamped := by
  intro n
  obtain ⟨low, high⟩ := clamp64_bounds (floorHalf n)
  rw [← floorHalf_eq_floor, roundTo64, BitVec.toInt_ofInt_eq_self (by decide) low high, clamp64, min_comm]
  rfl

/-! ## CARDINALITY (R170) -/

theorem exec_cardinality_of_valid {s : State} (valid : s.valid = true) :
    exec .cardinality s = .next (s.deliver ⟨0#4, roundTo64 (estimate s.cfg s.rep), none⟩) :=
  requireValid_of_valid valid _

/-- The buckets' values in order (R27). -/
theorem values_eq_map_range (D : Dense) : D.values = (List.range D.nib.length).map D.value :=
  List.ext_getElem (by simp) fun b hb _ => by rw [values_getElem D hb, List.getElem_map, List.getElem_range]

/-- Settles O50: the estimate of the regime, with the sum over the buckets. -/
theorem cardinalityAnswersEstimate : Obligations.CardinalityAnswersEstimate := by
  intro s valid len
  rw [exec_cardinality_of_valid valid, ← smallRegime_iff, estimate]
  refine ⟨fun small => ?_, fun large => ?_⟩
  · rw [if_pos small, linearCounting]
  · rw [if_neg large, rawEstimate, harmonicSum, harmonicUnits, values_eq_map_range, len, List.map_map]
    rfl

@[simp] theorem lnOfConfig_one (cfg : HwConfig) : lnOfConfig cfg one64 = zero64 := if_pos rfl

/-- R172: with every bucket empty the quotient is 1.0, so every logarithm gives 0.0 (R6). -/
theorem linearCounting_all_zero (cfg : HwConfig) {p : Nat} (hp : p ≤ 16) :
    linearCounting (lnOfConfig cfg) (2 ^ p) (2 ^ p) = zero64 := by
  have hm : 2 ^ p ≤ 2 ^ 53 := Nat.pow_le_pow_right Nat.two_pos (by omega)
  have quotient : div64 (natTo64 (2 ^ p)) (natTo64 (2 ^ p)) = one64 := by
    rw [div64_natTo64_two_pow hm (by omega), ← pow_add, Nat.add_sub_cancel' (by omega), ← unitsInOne_eq, one64]
  rw [linearCounting, quotient, lnOfConfig_one, natTo64_eq hm, mul64_zero64]

theorem estimate_fresh (cfg : HwConfig) {p : Nat} (hp : p ≤ 16) : estimate cfg (fresh p) = zero64 := by
  have count : (fresh p).baselineCount.toNat = 2 ^ p :=
    Nat.mod_eq_of_lt (Nat.pow_lt_pow_right Nat.one_lt_two (by omega))
  have small : smallRegime (fresh p) = true := by
    rw [smallRegime_iff, fresh_m hp, count]
    exact ⟨rfl, Nat.mul_lt_mul_of_pos_right (by decide) (Nat.two_pow_pos p)⟩
  rw [estimate, if_pos small, fresh_m hp, count, linearCounting_all_zero cfg hp]

theorem roundTo64_zero64 : roundTo64 zero64 = 0#64 := by decide

/-- Settles O56: a fresh representation is in the small regime, with all its buckets empty. -/
theorem cardinalityAfterInitIsZero : Obligations.CardinalityAfterInitIsZero := by
  intro s p pos le
  refine ⟨(s.hold (fresh p.toNat)).deliver (okResponse 0#64 none), if_pos (by simp [densePrecision, pos, le]), ?_⟩
  rw [exec_cardinality_of_valid rfl, State.deliver_rep, State.hold_rep, estimate_fresh _ le, roundTo64_zero64]

end Machine
end Sys2Proof
end

section
/-! 43_cardinality.md R176: bias correction by a table of 00_scope.md R6. -/

namespace Sys2Proof
namespace Machine

/-! ## The order of binary64 -/

theorem lt64_irrefl (x : Binary64) : ¬ lt64 x x = true := by cases x <;> simp [lt64]

/-- A value with one below it and one above it is finite. -/
theorem lt64_trans {x y z : Binary64} (hxy : lt64 x y = true) (hyz : lt64 y z = true) : lt64 x z = true := by
  cases y with
  | nan => simp [lt64] at hyz
  | posInf => cases z <;> simp [lt64] at hyz
  | negInf => cases x <;> simp [lt64] at hxy
  | fin b =>
    cases x <;> cases z <;> simp_all [lt64]
    exact hxy.trans hyz

theorem lt64_asymm {x y : Binary64} (h : lt64 x y = true) : ¬ lt64 y x = true := fun back =>
  lt64_irrefl x (lt64_trans h back)

/-! ## Increasing tables (R6) -/

/-- The raw estimates increase from each point to every later one. -/
def Increasing (t : BiasTable) : Prop := t.Pairwise fun a b => lt64 a.raw b.raw = true

theorem increasing_of_rawIncreasing {t : BiasTable} (h : rawIncreasing t = true) : Increasing t := by
  induction t with
  | nil => exact List.Pairwise.nil
  | cons a t ih =>
    cases t with
    | nil => exact List.pairwise_singleton _ a
    | cons b t =>
      obtain ⟨hab, rest⟩ := (Bool.and_eq_true _ _).mp h
      have later := ih rest
      refine List.pairwise_cons.mpr ⟨List.forall_mem_cons.mpr ⟨hab, fun c hc => ?_⟩, later⟩
      exact lt64_trans hab (List.rel_of_pairwise_cons later hc)

section
variable {t : BiasTable} (inc : Increasing t) {q first last : BiasPoint} (hq : q ∈ t)
include inc hq

theorem head_eq_or_lt (head : t.head? = some first) : first = q ∨ lt64 first.raw q.raw = true := by
  obtain ⟨rest, rfl⟩ := List.head?_eq_some_iff.mp head
  exact (List.mem_cons.mp hq).imp Eq.symm (List.rel_of_pairwise_cons inc)

theorem eq_or_lt_getLast (tail : t.getLast? = some last) : q = last ∨ lt64 q.raw last.raw = true := by
  obtain ⟨init, rfl⟩ := List.getLast?_eq_some_iff.mp tail
  obtain ⟨-, -, below⟩ := List.pairwise_append.mp inc
  exact (List.mem_append.mp hq).symm.imp List.mem_singleton.mp fun early =>
    below q early last (List.mem_singleton_self last)

end

/-! ## The range of a table -/

section
variable {t : BiasTable} {e : Binary64}

theorem outsideTable_of_lt_head {q : BiasPoint} (head : t.head? = some q) (h : lt64 e q.raw = true) :
    outsideTable t e = true := by
  rw [outsideTable, head]
  cases t.getLast? with
  | none => rfl
  | some last => exact Bool.or_eq_true_iff.mpr (.inl h)

theorem outsideTable_of_getLast_lt {q : BiasPoint} (tail : t.getLast? = some q) (h : lt64 q.raw e = true) :
    outsideTable t e = true := by
  rw [outsideTable, tail]
  cases t.head? with
  | none => rfl
  | some first => exact Bool.or_eq_true_iff.mpr (.inr h)

theorem biasCorrect_of_outside (h : outsideTable t e = true) : biasCorrect t e = e := if_pos h

/-- Between two points of the table, e is inside. -/
theorem biasCorrect_of_inside (inc : Increasing t) {lo hi : BiasPoint} (hlo : lo ∈ t) (hhi : hi ∈ t)
    (low : ¬ lt64 e lo.raw = true) (high : ¬ lt64 hi.raw e = true) : biasCorrect t e = sub64 e (biasAt e t) := by
  have ne := List.ne_nil_of_mem hlo
  have head := List.head?_eq_some_head ne
  have tail := List.getLast?_eq_some_getLast ne
  refine if_neg ?_
  rw [outsideTable, head, tail, Bool.or_eq_true, not_or]
  constructor
  · rcases head_eq_or_lt inc hlo head with eq | lt
    · rwa [eq]
    · exact fun below => low (lt64_trans below lt)
  · rcases eq_or_lt_getLast inc hhi tail with eq | lt
    · rwa [← eq]
    · exact fun above => high (lt64_trans lt above)

end

/-! ## The bias inside the range -/

section
variable {e : Binary64} {t : BiasTable}

/-- An exact hit: every earlier point is below e. -/
theorem biasAt_of_mem (inc : Increasing t) {q : BiasPoint} (hq : q ∈ t) (hit : q.raw = e) : biasAt e t = q.bias := by
  induction t with
  | nil => cases hq
  | cons a t ih =>
    cases t with
    | nil => rw [List.mem_singleton.mp hq, biasAt]
    | cons b t =>
      obtain ⟨above, later⟩ := List.pairwise_cons.mp inc
      rcases List.mem_cons.mp hq with rfl | hq
      · rw [biasAt, if_pos hit]
      · have ne : a.raw ≠ e := fun same => lt64_irrefl e (by simpa only [same, hit] using above q hq)
        rw [biasAt, if_neg ne]
        rcases List.mem_cons.mp hq with rfl | hq'
        · rw [if_neg (hit ▸ lt64_irrefl _), if_pos hit]
        · rw [if_pos (hit ▸ List.rel_of_pairwise_cons later hq'), ih later hq]

/-- Between two neighbours: the points up to the lower one are below e, and the upper one is not. -/
theorem biasAt_of_between (inc : Increasing t) {i : Nat} {lo hi : BiasPoint} (hlo : t[i]? = some lo)
    (hhi : t[i + 1]? = some hi) (low : lt64 lo.raw e = true) (high : lt64 e hi.raw = true) :
    biasAt e t = interpolate lo hi e := by
  induction i generalizing t with
  | zero =>
    obtain ⟨rest, rfl⟩ : ∃ rest, t = lo :: hi :: rest := by
      obtain ⟨t, rfl⟩ := List.head?_eq_some_iff.mp (List.head?_eq_getElem?.trans hlo)
      obtain ⟨rest, rfl⟩ := List.head?_eq_some_iff.mp (List.head?_eq_getElem?.trans hhi)
      exact ⟨rest, rfl⟩
    have ne : lo.raw ≠ e := fun same => lt64_irrefl e (same ▸ low)
    have ne' : hi.raw ≠ e := fun same => lt64_irrefl e (same ▸ high)
    rw [biasAt, if_neg ne, if_neg (lt64_asymm high), if_neg ne']
  | succ i ih =>
    obtain ⟨a, b, rest, rfl⟩ : ∃ a b rest, t = a :: b :: rest := by
      match t, hhi with
      | a :: b :: rest, _ => exact ⟨a, b, rest, rfl⟩
    obtain ⟨above, later⟩ := List.pairwise_cons.mp inc
    have below : lt64 b.raw e = true := by
      rcases head_eq_or_lt later (List.mem_of_getElem? hlo) rfl with rfl | lt
      · exact low
      · exact lt64_trans lt low
    have ne : a.raw ≠ e := fun same => lt64_asymm below (same ▸ above b List.mem_cons_self)
    rw [biasAt, if_neg ne, if_pos below]
    exact ih later hlo hhi

end

/-- Settles O54: outside the range nothing is done, and inside it the bias is that of the two cases above. -/
theorem biasCorrectionByTable : Obligations.BiasCorrectionByTable := by
  intro t e wf
  obtain ⟨increasing, -⟩ := (Bool.and_eq_true _ _).mp wf
  have inc := increasing_of_rawIncreasing increasing
  refine ⟨?_, ?_, ?_, ?_, ?_⟩
  · rintro rfl
    exact biasCorrect_of_outside rfl
  · exact fun q head low => biasCorrect_of_outside (outsideTable_of_lt_head head low)
  · exact fun q tail high => biasCorrect_of_outside (outsideTable_of_getLast_lt tail high)
  · intro q hq hit
    rw [biasCorrect_of_inside inc hq hq (hit ▸ lt64_irrefl _) (hit ▸ lt64_irrefl _), biasAt_of_mem inc hq hit]
  · intro i lo hi hlo hhi low high
    rw [biasCorrect_of_inside inc (List.mem_of_getElem? hlo) (List.mem_of_getElem? hhi) (lt64_asymm low)
      (lt64_asymm high), biasAt_of_between inc hlo hhi low high]
    rfl

end Machine
end Sys2Proof
end

section
/-! 44_merge.md R191 to R193: the rebuild of a merge, and the values it gives. -/

namespace Sys2Proof
namespace Machine

/-! ## The merged values and the base (R191, R192) -/

/-- `V[b]` (R191). -/
def mergedValue (S O : Dense) (b : Nat) : Nat := max (S.value b) (O.value b)

theorem toNat_mergedBase (S O : Dense) : (mergedBase S O).toNat = max S.baseline.toNat O.baseline.toNat := by
  unfold mergedBase
  split <;> omega

theorem mergedBase_comm (S O : Dense) : mergedBase S O = mergedBase O S :=
  BitVec.eq_of_toNat_eq (by rw [toNat_mergedBase, toNat_mergedBase, max_comm])

theorem mergedValues_comm (S O : Dense) : mergedValues S O = mergedValues O S :=
  List.zipWith_comm_of_comm max_comm

/-- Settles O47: the rebuild reads only the merged values and the base, and both are symmetric. -/
theorem mergeIsCommutative : Obligations.MergeIsCommutative := fun S O same => by
  rw [mergeCore, mergeCore, same, mergedBase_comm, mergedValues_comm]

theorem baseline_le_value (D : Dense) (b : Nat) : D.baseline.toNat ≤ D.value b := by
  rw [Dense.value]
  omega

/-- R27: BASELINE, a nibble of at most 15 and an excess of at most 255. -/
theorem value_le_baseline_add (D : Dense) (b : Nat) : D.value b ≤ D.baseline.toNat + 270 := by
  have nib := (D.nibAt b).isLt
  have excess := excessOf_le D.ovf b
  rw [Dense.value]
  omega

/-! ## The slot of the rebuild (R192) -/

/-- w is the place of the largest of f 0, ..., f (m - 1), the first among equals. -/
structure FirstLargest (f : Nat → Nat) (m w : Nat) : Prop where
  inside : w < m
  largest : ∀ j, j < m → f j ≤ f w
  first : ∀ j, j < w → f j < f w

section
variable {f : Nat → Nat} {m w : Nat}

theorem FirstLargest.unique {w' : Nat} (h : FirstLargest f m w) (h' : FirstLargest f m w') : w = w' := by
  refine le_antisymm (not_lt.mp fun before => ?_) (not_lt.mp fun before => ?_)
  · exact (h.first w' before).not_ge (h'.largest w h.inside)
  · exact (h'.first w before).not_ge (h.largest w' h'.inside)

/-- A new last value that is not larger leaves the place. -/
theorem FirstLargest.succ (h : FirstLargest f m w) (last : f m ≤ f w) : FirstLargest f (m + 1) w :=
  ⟨h.inside.trans m.lt_succ_self, Nat.forall_lt_succ_right.mpr ⟨h.largest, last⟩, h.first⟩

theorem firstLargest_last (last : ∀ j, j < m → f j < f m) : FirstLargest f (m + 1) m :=
  ⟨m.lt_succ_self, Nat.forall_lt_succ_right.mpr ⟨fun j hj => (last j hj).le, le_rfl⟩, last⟩

end

section
variable {f : Nat → Nat} {m base : Nat}

theorem rebuiltSlot_range_succ :
    rebuiltSlot base ((List.range (m + 1)).map f) =
      slotAfterDelta (rebuiltSlot base ((List.range m).map f)) m (f m - base) := by
  simp [rebuiltSlot, List.range_succ, List.zipIdx_append]

/-- The scan leaves the slot empty when nothing exceeds base + 15, and else with the first of the largest. -/
theorem rebuiltSlot_range_cases (fits : ∀ b, b < m → f b ≤ base + 270) :
    (rebuiltSlot base ((List.range m).map f) = Slot.empty ∧ ∀ b, b < m → f b ≤ base + 15) ∨
    ∃ w, FirstLargest f m w ∧ base + 15 < f w ∧
      rebuiltSlot base ((List.range m).map f) = ⟨true, BitVec.ofNat 16 w, BitVec.ofNat 8 (f w - base - 15)⟩ := by
  induction m with
  | zero => exact .inl ⟨rfl, fun b hb => absurd hb b.not_lt_zero⟩
  | succ m ih =>
    obtain ⟨fits, -⟩ := Nat.forall_lt_succ_right.mp fits
    rw [rebuiltSlot_range_succ]
    rcases ih fits with ⟨eq, low⟩ | ⟨w, first, high, eq⟩ <;> rw [eq]
    · by_cases wins : base + 15 < f m
      · exact .inr ⟨m, firstLargest_last fun j hj => (low j hj).trans_lt wins, wins,
          slotAfterDelta_of_wins m (Nat.lt_sub_iff_add_lt'.mpr wins)⟩
      · exact .inl ⟨slotAfterDelta_eq_self m (Nat.sub_le_iff_le_add'.mpr (not_lt.mp wins)),
          Nat.forall_lt_succ_right.mpr ⟨low, not_lt.mp wins⟩⟩
    · have excess : (BitVec.ofNat 8 (f w - base - 15)).toNat = f w - base - 15 :=
        Nat.mod_eq_of_lt (by have := fits w first.inside; omega)
      by_cases wins : f w < f m
      · exact .inr ⟨m, firstLargest_last fun j hj => (first.largest j hj).trans_lt wins, high.trans wins,
          slotAfterDelta_of_wins m (by rw [excess]; omega)⟩
      · exact .inr ⟨w, first.succ (not_lt.mp wins), high, slotAfterDelta_eq_self m (by rw [excess]; omega)⟩

section
variable (fits : ∀ b, b < m → f b ≤ base + 270) (hm : m ≤ 2 ^ 16) {b : Nat}
include fits hm

/-- The first of the largest has its whole excess in the slot. -/
theorem rebuiltSlot_excessOf_of_firstLargest (first : FirstLargest f m b) :
    (rebuiltSlot base ((List.range m).map f)).excessOf b = f b - (base + 15) := by
  have hb := first.inside
  rcases rebuiltSlot_range_cases fits with ⟨eq, low⟩ | ⟨w, first', -, eq⟩ <;> rw [eq]
  · exact (Nat.sub_eq_zero_of_le (low b hb)).symm
  · obtain rfl := first.unique first'
    have bucket : b % 65536 = b := Nat.mod_eq_of_lt (hb.trans_le hm)
    have excess : (f b - (base + 15)) % 256 = f b - (base + 15) := Nat.mod_eq_of_lt (by have := fits b hb; omega)
    simp only [Slot.excessOf, BitVec.toNat_ofNat, Nat.reducePow, bucket, Nat.sub_sub, excess, and_self, if_true]

/-- Every other bucket has no excess. -/
theorem rebuiltSlot_excessOf_of_not_firstLargest (other : ¬ FirstLargest f m b) :
    (rebuiltSlot base ((List.range m).map f)).excessOf b = 0 := by
  rcases rebuiltSlot_range_cases fits with ⟨eq, -⟩ | ⟨w, first, -, eq⟩ <;> rw [eq]
  · rfl
  · have bucket : w % 65536 = w := Nat.mod_eq_of_lt (first.inside.trans_le hm)
    have ne : w ≠ b := fun same => other (same ▸ first)
    simp [Slot.excessOf, bucket, ne]

end

/-! ## The rebuild (R192) -/

theorem rebuild_inv {p : BitVec 5} {base : BitVec 8} {V : List Nat} (hp : 1 ≤ p.toNat ∧ p.toNat ≤ 16)
    (len : V.length = 2 ^ p.toNat) : (rebuild p base V).Inv :=
  Dense.inv_of_counted hp (by rw [rebuild, rebuiltNib, List.length_map, len, Dense.m]) rfl
    (rebuiltSlot_fits _ (len ▸ Nat.pow_le_pow_right Nat.two_pos hp.2))

theorem rebuild_value (p : BitVec 5) (base : BitVec 8) (hb : b < m) :
    (rebuild p base ((List.range m).map f)).value b =
      base.toNat + min (f b - base.toNat) 15 + (rebuiltSlot base.toNat ((List.range m).map f)).excessOf b := by
  simp [rebuild, Dense.value, Dense.nibAt, rebuiltNib, hb]

end

/-! ## The values of a merge (R192, R193) -/

section
variable {S O : Dense} (invS : S.Inv) (invO : O.Inv) (same : O.p = S.p) {b : Nat}

theorem mergedValue_le (b : Nat) : mergedValue S O b ≤ (mergedBase S O).toNat + 270 := by
  have left := value_le_baseline_add S b
  have right := value_le_baseline_add O b
  rw [mergedValue, toNat_mergedBase]
  omega

theorem mergedBase_le_mergedValue (b : Nat) : (mergedBase S O).toNat ≤ mergedValue S O b := by
  rw [toNat_mergedBase]
  exact max_le_max (baseline_le_value S b) (baseline_le_value O b)

include invS invO same

/-- R191: the values bucket by bucket. -/
theorem mergedValues_eq_map_range : mergedValues S O = (List.range S.m).map (mergedValue S O) := by
  obtain ⟨-, lenS, -⟩ := invS
  obtain ⟨-, lenO, -⟩ := invO
  rw [mergedValues, values_eq_map_range, values_eq_map_range, lenS, lenO, Dense.m, Dense.m, same, List.zipWith_map,
    List.zipWith_self]
  rfl

/-- The raise keeps the values of the rebuild (R148). -/
theorem mergeCore_value (hb : b < S.m) :
    (mergeCore S O).value b = (mergedBase S O).toNat + min (mergedValue S O b - (mergedBase S O).toNat) 15 +
      (rebuiltSlot (mergedBase S O).toNat ((List.range S.m).map (mergedValue S O))).excessOf b := by
  rw [mergeCore, mergedValues_eq_map_range invS invO same,
    raiseBaseline_value (rebuild_inv invS.1 (by rw [List.length_map, List.length_range, Dense.m])) hb,
    rebuild_value _ _ hb]

/-- The first of the largest keeps its value, whether it needs the slot or not. -/
theorem mergeCore_value_of_firstLargest (first : FirstLargest (mergedValue S O) S.m b) :
    (mergeCore S O).value b = mergedValue S O b := by
  have above := mergedBase_le_mergedValue (S := S) (O := O) b
  rw [mergeCore_value invS invO same first.inside,
    rebuiltSlot_excessOf_of_firstLargest (fun c _ => mergedValue_le c) (Dense.m_le invS.1.2) first]
  omega

/-- Every other bucket is clamped at base + 15. -/
theorem mergeCore_value_of_not_firstLargest (hb : b < S.m) (other : ¬ FirstLargest (mergedValue S O) S.m b) :
    (mergeCore S O).value b = min (mergedValue S O b) ((mergedBase S O).toNat + 15) := by
  have above := mergedBase_le_mergedValue (S := S) (O := O) b
  rw [mergeCore_value invS invO same hb,
    rebuiltSlot_excessOf_of_not_firstLargest (fun c _ => mergedValue_le c) (Dense.m_le invS.1.2) other]
  omega

end

/-- Settles O46: the bucket that R192's scan records is the first of the largest. -/
theorem mergeValues : Obligations.MergeValues := by
  intro S O invS invO same
  refine ⟨mergeCore_inv invS invO same, mergeCore_p S O, fun b hb => ?_⟩
  rw [← toNat_mergedBase]
  refine ⟨fun low => ?_, fun high => ⟨fun ⟨before, after⟩ => ?_, fun beaten => ?_⟩⟩
  · by_cases first : FirstLargest (mergedValue S O) S.m b
    · exact mergeCore_value_of_firstLargest invS invO same first
    · exact (mergeCore_value_of_not_firstLargest invS invO same hb first).trans (min_eq_left low)
  · refine mergeCore_value_of_firstLargest invS invO same ⟨hb, fun c hc => ?_, before⟩
    rcases lt_trichotomy c b with lt | rfl | gt
    · exact (before c lt).le
    · exact le_rfl
    · exact after c gt hc
  · refine (mergeCore_value_of_not_firstLargest invS invO same hb ?_).trans (min_eq_right high.le)
    intro first
    rcases beaten with ⟨c, lt, le⟩ | ⟨c, -, hc, more⟩
    · exact (first.first c lt).not_ge le
    · exact (first.largest c hc).not_gt more

/-! ## A merge with itself (R193) -/

theorem Slot.excessOf_eq_zero_of_ne {o : Slot} {b c : Nat} (held : o.excessOf b ≠ 0) (ne : c ≠ b) :
    o.excessOf c = 0 := by
  unfold Slot.excessOf at held ⊢
  split at held
  case isTrue holds => exact if_neg fun holds' => ne (holds'.2.symm.trans holds.2)
  case isFalse => exact absurd rfl held

theorem value_le_of_excessOf_eq_zero {D : Dense} {b : Nat} (none0 : D.ovf.excessOf b = 0) :
    D.value b ≤ D.baseline.toNat + 15 := by
  have nib := (D.nibAt b).isLt
  rw [Dense.value, none0]
  omega

/-- Two buckets cannot both be above BASELINE + 15, because there is one slot (R27). -/
theorem value_le_of_ne {D : Dense} {b c : Nat} (above : D.baseline.toNat + 15 < D.value b) (ne : c ≠ b) :
    D.value c ≤ D.baseline.toNat + 15 :=
  value_le_of_excessOf_eq_zero
    (Slot.excessOf_eq_zero_of_ne (fun none0 => above.not_ge (value_le_of_excessOf_eq_zero none0)) ne)

/-- Settles O48: a bucket above BASELINE + 15 is the only one, so a merge keeps its value. -/
theorem mergeWithItselfKeepsValues : Obligations.MergeWithItselfKeepsValues := by
  intro S inv b hb
  obtain ⟨-, -, values⟩ := mergeValues S S inv inv rfl
  simp only [max_self] at values
  obtain ⟨low, high⟩ := values b hb
  by_cases above : S.baseline.toNat + 15 < S.value b
  · have others {c : Nat} (ne : c ≠ b) : S.value c < S.value b := (value_le_of_ne above ne).trans_lt above
    exact (high above).1 ⟨fun c lt => others lt.ne, fun c gt _ => (others gt.ne').le⟩
  · exact low (not_lt.mp above)

end Machine
end Sys2Proof
end

section
/-! 45_image_packer.md R213, R215, R216, R219: what a serialized representation and a sparse image parse to;
44_merge.md R190: MERGE_IMAGE of either. -/

namespace Sys2Proof
namespace Machine

/-! ## The bytes of a serialized representation (R210 to R213) -/

@[simp] theorem imgByte_serialize_two (cfg : HwConfig) (D : Dense) : imgByte (serialize cfg D) 2 = D.baseline := rfl

@[simp] theorem toNat_imgByte_serialize_one (cfg : HwConfig) (D : Dense) :
    (imgByte (serialize cfg D) 1).toNat = D.p.toNat := by
  show (D.p.setWidth 8).toNat = D.p.toNat
  exact BitVec.toNat_setWidth_of_le (by decide)

section
variable (cfg : HwConfig) {D : Dense} (inv : D.Inv)
include inv

theorem packNibbles_nib_length : (packNibbles D.nib).length = 2 ^ D.p.toNat / 2 := by
  obtain ⟨-, len, -⟩ := inv
  rw [packNibbles_length, len, Dense.m]

theorem serialize_length : (serialize cfg D).length = denseImageSize D.p.toNat := by
  simp only [serialize, List.length_append, packNibbles_nib_length inv, denseImageSize, List.length_cons,
    List.length_nil]
  omega

/-- The three bytes after the nibbles. -/
theorem imgByte_serialize_tail (k : Nat) :
    imgByte (serialize cfg D) (3 + 2 ^ D.p.toNat / 2 + k) =
      imgByte [(slotField D.ovf).extractLsb' 8 8, (slotField D.ovf).extractLsb' 0 8, D.ovf.value] k := by
  have front : ([cfg.tagDenseV1, D.p.setWidth 8, D.baseline] ++ packNibbles D.nib).length = 3 + 2 ^ D.p.toNat / 2 := by
    rw [List.length_append, packNibbles_nib_length inv]
    rfl
  rw [← front]
  exact imgByte_append_right _ _ k

theorem imageU_serialize : imageU D.p.toNat (serialize cfg D) = slotField D.ovf := by
  have high := imgByte_serialize_tail cfg inv 0
  rw [imageU, be16, imgByte_serialize_tail cfg inv 1]
  exact (congrArg (· ++ (slotField D.ovf).extractLsb' 0 8) high).trans (append_bytes _)

theorem imageOv_serialize : imageOv D.p.toNat (serialize cfg D) = D.ovf.value := by
  rw [imageOv, Nat.add_right_comm 3 2]
  exact imgByte_serialize_tail cfg inv 2

theorem imageNib_serialize : imageNib D.p.toNat (serialize cfg D) = D.nib := by
  have packed : deltaBytes D.p.toNat (serialize cfg D) = packNibbles D.nib := by
    rw [deltaBytes, ← packNibbles_nib_length inv]
    exact List.take_left
  obtain ⟨⟨pos, -⟩, len, -⟩ := inv
  rw [imageNib, packed, unpackNibbles_packNibbles]
  rw [len, Dense.m, ← two_dvd_pow pos, Nat.mul_mod_left]

/-- The slot is all that the rest of the image leaves open. -/
theorem imageDense_serialize : imageDense D.p.toNat (serialize cfg D) D.ovf = D := by
  have nib := imageNib_serialize cfg inv
  obtain ⟨-, -, count, -⟩ := inv
  simp only [imageDense, nib, ← count, imgByte_serialize_two, BitVec.ofNat_toNat, BitVec.setWidth_eq]

/-! ## Parsing (R215, R216, R219) -/

theorem parseDenseBody_serialize (fits : unrepresentable D = false) :
    parseDenseBody D.p.toNat (serialize cfg D) = .ok D := by
  have whole := imageDense_serialize cfg inv
  rw [parseDenseBody, imageU_serialize cfg inv, imageOv_serialize cfg inv, imageNib_serialize cfg inv]
  obtain ⟨-, -, -, slot, empty⟩ := inv
  cases held : D.ovf.valid with
  | true =>
    obtain ⟨inside, full⟩ := slot held
    rw [Dense.m] at inside
    rw [Dense.nibAt] at full
    have field : slotField D.ovf = D.ovf.bucket := if_pos held
    have free : D.ovf.bucket ≠ 0xFFFF#16 := by simpa [unrepresentable, held] using fits
    have same : (⟨true, D.ovf.bucket, D.ovf.value⟩ : Slot) = D.ovf := by rw [← held]
    rw [field, if_neg free, if_neg (not_le.mpr inside), if_neg (not_not.mpr full), same, whole]
  | false =>
    obtain ⟨value, bucket⟩ := empty held
    have field : slotField D.ovf = 0xFFFF#16 := if_neg (by simp [held])
    have same : Slot.empty = D.ovf := by rw [Slot.empty, ← held, ← value, ← bucket]
    rw [if_pos field, if_neg (not_not.mpr value), same, whole]

theorem parseDense_serialize (fits : unrepresentable D = false) : parseDense (serialize cfg D) = .ok D := by
  have length := serialize_length cfg inv
  have legal : densePrecision D.p.toNat = true := by simp [densePrecision, inv.1]
  rw [parseDense, toNat_imgByte_serialize_one, parseDenseBody_serialize cfg inv fits, length]
  simp [legal, denseImageSize]

end

section
variable {cfg : HwConfig} (wf : cfg.wf = true)
include wf

/-- R6: the three tags are distinct. -/
theorem tags_distinct : cfg.tagSparseV1 ≠ cfg.tagDenseV1 ∧ cfg.tagSparseV1 ≠ cfg.tagSparseV2 ∧
    cfg.tagDenseV1 ≠ cfg.tagSparseV2 := by
  simp only [HwConfig.wf, Bool.and_eq_true, decide_eq_true_eq] at wf
  obtain ⟨⟨⟨⟨retiredDense, retiredSparse⟩, denseSparse⟩, -⟩, -⟩ := wf
  exact ⟨retiredDense, retiredSparse, denseSparse⟩

/-- R215: the sparse tag routes an image to the converter. -/
theorem parseImage_tagSparseV2_cons (rest : List Byte) :
    parseImage cfg (cfg.tagSparseV2 :: rest) = convertSparse (cfg.tagSparseV2 :: rest) := by
  obtain ⟨-, retiredSparse, -⟩ := tags_distinct wf
  exact (if_neg (by simp)).trans ((if_neg retiredSparse.symm).trans (if_pos rfl))

/-- R215, R218: the dense tag routes an image to the unpacker, where there is one. -/
theorem parseImage_tagDenseV1_cons (packer : cfg.hasPacker = true) (rest : List Byte) :
    parseImage cfg (cfg.tagDenseV1 :: rest) = parseDense (cfg.tagDenseV1 :: rest) := by
  obtain ⟨retiredDense, -, denseSparse⟩ := tags_distinct wf
  exact (if_neg (by simp)).trans
    ((if_neg retiredDense.symm).trans ((if_neg denseSparse).trans (if_pos ⟨rfl, packer⟩)))

theorem parseImage_serialize (packer : cfg.hasPacker = true) {D : Dense} (inv : D.Inv)
    (fits : unrepresentable D = false) : parseImage cfg (serialize cfg D) = .ok D :=
  (parseImage_tagDenseV1_cons wf packer _).trans (parseDense_serialize cfg inv fits)

theorem parseImage_sparseImage {p : Nat} {es : List SparseEntry} (pos : 1 ≤ p) (le : p ≤ 16)
    (count : es.length < 65536) (order : ascending es = true) :
    parseImage cfg (sparseImage cfg.tagSparseV2 (BitVec.ofNat 8 p) es) = .ok (toDense p es) := by
  have parses := parseSparse_sparseImage cfg.tagSparseV2 pos (by omega) count order
  rw [if_pos le] at parses
  refine (parseImage_tagSparseV2_cons wf _).trans ?_
  show convertSparse (sparseImage cfg.tagSparseV2 (BitVec.ofNat 8 p) es) = _
  rw [convertSparse, parses]

end

/-! ## MERGE_IMAGE (44_merge.md R190) -/

section
variable {s : State} (valid : s.valid = true) {img : Image} {O : Dense} (parses : parseImage s.cfg img = .ok O)
include valid parses

theorem exec_mergeImage_of_same (same : O.p = s.rep.p) : exec (.mergeImage img) s =
    .next ((s.update (mergeCore s.rep O)).deliver ⟨0#4, (imgByte img 0).setWidth 64, none⟩) := by
  refine (requireValid_of_valid valid _).trans ?_
  rw [parses]
  exact if_pos same

theorem exec_mergeImage_of_ne (ne : O.p ≠ s.rep.p) :
    exec (.mergeImage img) s = .next (s.deliver ⟨7#4, 0#64, none⟩) := by
  refine (requireValid_of_valid valid _).trans ?_
  rw [parses]
  exact if_neg ne

end

theorem toDense_p_eq_iff {p : Nat} (le : p ≤ 16) (es : List SparseEntry) (q : BitVec 5) :
    (toDense p es).p = q ↔ p = q.toNat := by
  obtain ⟨hp, -⟩ := toDense_p_length p es
  rw [hp, ← BitVec.toNat_inj, toNat_ofNat_precision le]

/-- Settles O45: both images parse, and then MERGE_IMAGE compares the precisions. -/
theorem mergeImageCompletes : Obligations.MergeImageCompletes := by
  refine fun s wf valid => ⟨fun O packer inv fits => ?_, fun p es pos le count order => ?_⟩
  · have parses := parseImage_serialize wf packer inv fits
    exact ⟨exec_mergeImage_of_same valid parses, exec_mergeImage_of_ne valid parses⟩
  · have parses := parseImage_sparseImage wf pos le count order
    rw [ne_eq, ← toDense_p_eq_iff le es]
    exact ⟨exec_mergeImage_of_same valid parses, exec_mergeImage_of_ne valid parses⟩

end Machine
end Sys2Proof
end

section
/-! 45_image_packer.md R210 to R222: STORE_IMAGE byte by byte, the tag router, LOAD_IMAGE, and the round trip of a dense
image. -/

namespace Sys2Proof
namespace Machine

/-! ## The round trip (R219) -/

/-- Settles O40: the fields are read back one by one (`imageDense_serialize`), and the invariant passes every check. -/
theorem serializeThenParse : Obligations.SerializeThenParse := fun cfg _ => parseDense_serialize cfg

/-- A legal precision fits the field P, so the precision byte (R210) keeps it. -/
theorem setWidth_ofNat_precision {p : Nat} (le : p ≤ 16) : (BitVec.ofNat 5 p).setWidth 8 = BitVec.ofNat 8 p := by
  rw [← BitVec.ofNat_toNat, toNat_ofNat_precision le]

theorem drop_eq_three_bytes_append {img : Image} {k : Nat} (hk : k + 3 ≤ img.length) :
    img.drop k = [imgByte img k, imgByte img (k + 1), imgByte img (k + 2)] ++ img.drop (k + 3) := by
  rw [drop_eq_imgByte_cons (by omega), drop_eq_imgByte_cons (by omega), drop_eq_imgByte_cons (by omega)]
  rfl

/-- R210: an image of the right length is its three front bytes, its delta bytes and its overflow fields. -/
theorem eq_fields_of_length {p : Nat} {img : Image} (length : img.length = denseImageSize p) :
    img = [imgByte img 0, imgByte img 1, imgByte img 2] ++ deltaBytes p img ++
      [(imageU p img).extractLsb' 8 8, (imageU p img).extractLsb' 0 8, imageOv p img] := by
  rw [denseImageSize] at length
  have front : img = [imgByte img 0, imgByte img 1, imgByte img 2] ++ img.drop 3 :=
    drop_eq_three_bytes_append (k := 0) (by have := Nat.two_pow_pos p; omega)
  have back : img.drop (3 + 2 ^ p / 2) =
      [imgByte img (3 + 2 ^ p / 2), imgByte img (3 + 2 ^ p / 2 + 1), imgByte img (3 + 2 ^ p / 2 + 2)] := by
    rw [drop_eq_three_bytes_append (by omega), List.drop_of_length_le (by omega), List.append_nil]
  rw [imageU, be16_high, be16_low, imageOv, Nat.add_right_comm 3 2, ← back, deltaBytes, ← List.drop_drop,
    List.append_assoc, List.take_append_drop]
  exact front

/-- A slot that has the image's overflow fields completes what was read to what the image was made of. -/
theorem serialize_imageDense {cfg : HwConfig} {img : Image} (tag : imgByte img 0 = cfg.tagDenseV1)
    (le : (imgByte img 1).toNat ≤ 16) (length : img.length = denseImageSize (imgByte img 1).toNat) {o : Slot}
    (field : slotField o = imageU (imgByte img 1).toNat img) (value : o.value = imageOv (imgByte img 1).toNat img) :
    serialize cfg (imageDense (imgByte img 1).toNat img o) = img := by
  rw [serialize, imageDense, setWidth_ofNat_precision le, imageNib, packNibbles_unpackNibbles, field, value, ← tag,
    BitVec.ofNat_toNat, BitVec.setWidth_eq]
  exact (eq_fields_of_length length).symm

/-- Settles O41: whichever slot the parser chose has the image's overflow fields. -/
theorem parseThenSerialize : Obligations.ParseThenSerialize := by
  refine fun cfg img => ⟨fun D tag parses => ?_, fun st => parseDense_error⟩
  obtain ⟨p, rfl, ⟨-, le⟩, length, ⟨noSlot, zero, rfl⟩ | ⟨-, -, -, rfl⟩⟩ := parseDense_ok parses
  · exact serialize_imageDense tag le length noSlot.symm zero.symm
  · exact serialize_imageDense tag le length rfl rfl

/-! ## STORE_IMAGE (R210 to R214) -/

theorem toNat_append_nibbles (a b : Nibble) : (a ++ b : BitVec 8).toNat = a.toNat * 16 + b.toNat := by
  rw [BitVec.toNat_append, ← Nat.shiftLeft_add_eq_or_of_lt b.isLt, Nat.shiftLeft_eq]

/-- R211: byte j packs the nibbles 2j and 2j + 1. -/
theorem imgByte_packNibbles : ∀ {nib : List Nibble} {j : Nat}, j < nib.length / 2 →
    imgByte (packNibbles nib) j = nib.getD (2 * j) 0#4 ++ nib.getD (2 * j + 1) 0#4
  | [], _, inside | [_], _, inside => by simp at inside
  | _ :: _ :: _, 0, _ => rfl
  | _ :: _ :: rest, j + 1, inside => imgByte_packNibbles (nib := rest) (j := j) (by
      simp only [List.length_cons] at inside
      omega)

theorem imgByte_serialize_delta (cfg : HwConfig) {D : Dense} (inv : D.Inv) {j : Nat} (inside : j < D.m / 2) :
    imgByte (serialize cfg D) (3 + j) = D.nibAt (2 * j) ++ D.nibAt (2 * j + 1) := by
  obtain ⟨-, len, -⟩ := inv
  rw [← len] at inside
  rw [serialize, List.append_assoc]
  refine (imgByte_append_right [cfg.tagDenseV1, D.p.setWidth 8, D.baseline] _ j).trans ?_
  rw [imgByte, List.getD_append _ _ _ _ (by rwa [packNibbles_length])]
  exact imgByte_packNibbles inside

section
variable {s : State} (packer : s.cfg.hasPacker = true) (valid : s.valid = true)
include packer valid

theorem exec_storeImage_of_unrepresentable (unfit : unrepresentable s.rep = true) :
    exec .storeImage s = .next (s.deliver ⟨9#4, 0#64, none⟩) :=
  (requirePacker_of_packer packer _).trans ((requireValid_of_valid valid _).trans (if_pos unfit))

theorem exec_storeImage_of_representable (fits : unrepresentable s.rep = false) : exec .storeImage s =
    .next (s.deliver ⟨0#4, BitVec.ofNat 64 (serialize s.cfg s.rep).length, some (serialize s.cfg s.rep)⟩) :=
  (requirePacker_of_packer packer _).trans ((requireValid_of_valid valid _).trans (if_neg (by simp [fits])))

end

theorem unrepresentable_iff (D : Dense) :
    unrepresentable D = true ↔ D.ovf.valid = true ∧ D.ovf.bucket = 0xFFFF#16 := by
  rw [unrepresentable, Bool.and_eq_true, decide_eq_true_eq]

/-- Settles O39: the image is `serialize`'s, and each field of R210 is read off it. -/
theorem storeImageLayout : Obligations.StoreImageLayout := by
  refine ⟨fun s bare => requirePacker_of_no_packer bare _, fun s packer valid inv => ?_⟩
  rw [← unrepresentable_iff, Bool.not_eq_true]
  refine ⟨exec_storeImage_of_unrepresentable packer valid, fun fits =>
    ⟨_, exec_storeImage_of_representable packer valid fits, serialize_length _ inv, rfl,
      toNat_imgByte_serialize_one _ _, rfl, fun j inside => ?_, imageU_serialize _ inv, imageOv_serialize _ inv⟩⟩
  rw [imgByte_serialize_delta _ inv inside, toNat_append_nibbles]

/-! ## The tag router (R215, R218) -/

theorem convertSparse_eq_map (img : Image) : convertSparse img = (parseSparse img).map fun pe => toDense pe.1 pe.2 := by
  rw [convertSparse]
  cases parseSparse img <;> rfl

theorem parseImage_tagSparseV1_cons (cfg : HwConfig) (rest : List Byte) :
    parseImage cfg (cfg.tagSparseV1 :: rest) = .error .formatRetired :=
  (if_neg (by simp)).trans (if_pos rfl)

theorem parseImage_unknown_cons {cfg : HwConfig} {tag : Byte} (notRetired : tag ≠ cfg.tagSparseV1)
    (notSparse : tag ≠ cfg.tagSparseV2) (notDense : ¬ (tag = cfg.tagDenseV1 ∧ cfg.hasPacker = true))
    (rest : List Byte) : parseImage cfg (tag :: rest) = .error .formatUnknown :=
  (if_neg (by simp)).trans ((if_neg notRetired).trans ((if_neg notSparse).trans (if_neg notDense)))

/-- Settles O42: one route for each tag of R6, and none for another. -/
theorem tagDecidesTheRoute : Obligations.TagDecidesTheRoute := by
  refine fun cfg wf => ⟨rfl, fun tag rest => ⟨?_, ?_, ?_, ?_, ?_⟩⟩
  · rintro rfl
    exact parseImage_tagSparseV1_cons cfg rest
  · rintro rfl
    rw [parseImage_tagSparseV2_cons wf, convertSparse_eq_map]
  · rintro rfl packer
    exact parseImage_tagDenseV1_cons wf packer rest
  · rintro rfl bare
    obtain ⟨retiredDense, -, denseSparse⟩ := tags_distinct wf
    exact parseImage_unknown_cons retiredDense.symm denseSparse (by simp [bare]) rest
  · exact fun notRetired notSparse notDense =>
      parseImage_unknown_cons notRetired notSparse (fun dense => notDense dense.1) rest

/-! ## LOAD_IMAGE (R222) -/

theorem exec_loadImage_of_parses {s : State} {img : Image} {D : Dense} (parses : parseImage s.cfg img = .ok D) :
    exec (.loadImage img) s = .next ((s.hold D).deliver ⟨0#4, loadData D img, none⟩) := by
  show execLoadImage img s = _
  rw [execLoadImage, parses]
  rfl

theorem loadData_sparseImage {p : Nat} (le : p ≤ 16) (tag : Byte) (es : List SparseEntry) :
    loadData (toDense p es) (sparseImage tag (BitVec.ofNat 8 p) es) = 0#48 ++ BitVec.ofNat 8 p ++ tag := by
  obtain ⟨precision, -⟩ := toDense_p_length p es
  rw [loadData, precision, setWidth_ofNat_precision le]
  rfl

/-- Settles O43: both images parse, and LOAD_IMAGE holds what they parse to. -/
theorem loadImageCompletes : Obligations.LoadImageCompletes := by
  refine fun s wf => ⟨fun D packer inv fits => ?_, fun p es pos le count order => ?_⟩
  · exact exec_loadImage_of_parses (parseImage_serialize wf packer inv fits)
  · rw [exec_loadImage_of_parses (parseImage_sparseImage wf pos le count order), loadData_sparseImage le]

end Machine
end Sys2Proof
end

section
/-! 46_control.md R240 to R243: NOP, the flags of VERIFY, the parts of a bucket, and the CSR view of 10_state.md R33
to R42. -/

namespace Sys2Proof
namespace Machine

/-! ## NOP (R240) -/

/-- Settles O57, by the definition of NOP. -/
theorem nopAnswersOk : Obligations.NopAnswersOk := fun _ => rfl

/-! ## VERIFY (R241) -/

section
variable (D : Dense)

/-- The four flags, each put below the earlier ones. -/
theorem verifyFlags_eq_concat : verifyFlags D = ((((0#60).concat (emptySlotWrong D)).concat (slotRangeWrong D)).concat
    (slotNibbleWrong D)).concat (countWrong D) := rfl

theorem verifyFlags_count : (verifyFlags D).getLsbD 0 = countWrong D := by
  rw [verifyFlags_eq_concat, BitVec.getLsbD_concat_zero]

theorem verifyFlags_slotNibble : (verifyFlags D).getLsbD 1 = slotNibbleWrong D := by
  rw [verifyFlags_eq_concat, BitVec.getLsbD_concat_succ, BitVec.getLsbD_concat_zero]

theorem verifyFlags_slotRange : (verifyFlags D).getLsbD 2 = slotRangeWrong D := by
  rw [verifyFlags_eq_concat, BitVec.getLsbD_concat_succ, BitVec.getLsbD_concat_succ, BitVec.getLsbD_concat_zero]

theorem verifyFlags_emptySlot : (verifyFlags D).getLsbD 3 = emptySlotWrong D := by
  rw [verifyFlags_eq_concat, BitVec.getLsbD_concat_succ, BitVec.getLsbD_concat_succ, BitVec.getLsbD_concat_succ,
    BitVec.getLsbD_concat_zero]

@[simp] theorem verifyFlags_zeros : (verifyFlags D).extractLsb' 4 60 = 0#60 := by
  rw [verifyFlags, BitVec.extractLsb'_append_eq_of_le (by decide), BitVec.extractLsb'_append_eq_of_le (by decide),
    BitVec.extractLsb'_append_eq_of_le (by decide)]
  exact BitVec.extractLsb'_append_eq_left

/-- The register file, bucket by bucket (R23). -/
theorem nib_eq_map_range : D.nib = (List.range D.nib.length).map D.nibAt :=
  List.ext_getElem (by simp) fun b hb _ => by rw [List.getElem_map, List.getElem_range, nibAt_eq_getElem hb]

/-- R28's "number of b in [0, m) with NIB[b] = 0". -/
theorem zeroCount_eq_length_filter_range (len : D.nib.length = D.m) :
    zeroCount D.nib = ((List.range D.m).filter fun b => D.nibAt b = 0#4).length := by
  rw [zeroCount, nib_eq_map_range, len, List.count, List.countP_map, List.countP_eq_length_filter]
  rfl

theorem countWrong_iff : countWrong D = true ↔ D.baselineCount.toNat ≠ zeroCount D.nib := decide_eq_true_iff

theorem slotNibbleWrong_iff : slotNibbleWrong D = true ↔
    D.ovf.valid = true ∧ D.ovf.bucket.toNat < D.m ∧ D.nibAt D.ovf.bucket.toNat ≠ 15#4 := by
  simp [slotNibbleWrong, and_assoc]

theorem slotRangeWrong_iff : slotRangeWrong D = true ↔ D.ovf.valid = true ∧ D.m ≤ D.ovf.bucket.toNat := by
  simp [slotRangeWrong]

theorem emptySlotWrong_iff : emptySlotWrong D = true ↔
    D.ovf.valid = false ∧ (D.ovf.value ≠ 0#8 ∨ D.ovf.bucket ≠ 0#16) := by
  simp [emptySlotWrong]

end

theorem exec_verify_of_valid {s : State} (valid : s.valid = true) : exec .verify s = .next (s.deliver
    (if verifyFlags s.rep = 0#64 then ⟨0#4, 0#64, none⟩ else ⟨10#4, verifyFlags s.rep, none⟩)) := by
  refine (requireValid_of_valid valid _).trans ?_
  by_cases clean : verifyFlags s.rep = 0#64
  · rw [if_neg (not_not.mpr clean), if_pos clean]
    rfl
  · rw [if_pos clean, if_neg clean]
    rfl

/-- Settles O58: each flag is its condition, and the invariant leaves none set. -/
theorem verifyChecksInvariants : Obligations.VerifyChecksInvariants := by
  refine fun s => ⟨fun invalid => requireValid_of_not_valid invalid _, fun valid len =>
    ⟨verifyFlags s.rep, ?_, ?_, ?_, ?_, verifyFlags_zeros _, exec_verify_of_valid valid⟩, fun valid inv => ?_⟩
  · rw [verifyFlags_count, countWrong_iff, zeroCount_eq_length_filter_range _ len]
  · rw [verifyFlags_slotNibble, slotNibbleWrong_iff]
  · rw [verifyFlags_slotRange, slotRangeWrong_iff]
  · rw [verifyFlags_emptySlot, emptySlotWrong_iff]
  · rw [exec_verify_of_valid valid, if_pos (verifyFlags_eq_zero inv)]

/-! ## READ_BUCKET (R242) -/

section
variable (D : Dense) (b : Nat)

@[simp] theorem bucketData_value : ((bucketData D b).extractLsb' 0 16).toNat = D.value b := by
  have fits : D.value b < 2 ^ 16 := (value_le D b).trans_lt (by decide)
  rw [bucketData, BitVec.extractLsb'_append_eq_right, BitVec.toNat_ofNat, Nat.mod_eq_of_lt fits]

@[simp] theorem bucketData_nibble : (bucketData D b).extractLsb' 16 4 = D.nibAt b := by
  rw [bucketData, BitVec.extractLsb'_append_eq_of_le (by decide)]
  exact BitVec.extractLsb'_append_eq_right

theorem bucketData_slot : (bucketData D b).getLsbD 20 = (D.ovf.valid && decide (D.ovf.bucket.toNat = b)) := by
  rw [bucketData, BitVec.getLsbD_append, BitVec.getLsbD_append, BitVec.getLsbD_append]
  simp

@[simp] theorem bucketData_zeros : (bucketData D b).extractLsb' 21 43 = 0#43 := by
  rw [bucketData, BitVec.extractLsb'_append_eq_of_le (by decide), BitVec.extractLsb'_append_eq_of_le (by decide)]
  exact BitVec.extractLsb'_append_eq_left

end

section
variable {s : State} (valid : s.valid = true) {bucket : BitVec 16}
include valid

theorem exec_readBucket_of_legal (legal : bucket.toNat < s.rep.m) :
    exec (.readBucket bucket) s = .next (s.deliver ⟨0#4, bucketData s.rep bucket.toNat, none⟩) :=
  (requireValid_of_valid valid _).trans (if_pos (decide_eq_true legal))

theorem exec_readBucket_of_beyond (beyond : s.rep.m ≤ bucket.toNat) :
    exec (.readBucket bucket) s = .next (s.deliver ⟨3#4, 0#64, none⟩) :=
  (requireValid_of_valid valid _).trans (if_neg fun legal => (of_decide_eq_true legal).not_ge beyond)

end

/-- Settles O59: READ_BUCKET checks VALID, then the bucket, and every part of its data has a field of its own. -/
theorem readBucketAnswersValue : Obligations.ReadBucketAnswersValue := by
  refine fun s bucket => ⟨fun invalid => requireValid_of_not_valid invalid _, fun valid beyond =>
    exec_readBucket_of_beyond valid beyond, fun valid legal =>
    ⟨_, exec_readBucket_of_legal valid legal, ?_, bucketData_nibble _ _, ?_, bucketData_zeros _ _⟩⟩
  · simp only [bucketData_value, Dense.value, Slot.excessOf, BitVec.toNat_inj]
  · rw [bucketData_slot, Bool.and_eq_true, decide_eq_true_eq, BitVec.toNat_inj]

/-! ## READ_CSR (R243) -/

theorem csrStatus_eq_ite (s : State) : csrStatus s = if s.valid = true then 1#64 else 0#64 := by
  rw [csrStatus]
  cases s.valid <;> rfl

section
variable (cfg : HwConfig)

@[simp] theorem csrHwcfg_width : (csrHwcfg cfg).extractLsb' 0 8 = 16#8 := BitVec.extractLsb'_append_eq_right

theorem csrHwcfg_packer : (csrHwcfg cfg).getLsbD 8 = cfg.hasPacker := by
  rw [csrHwcfg, BitVec.getLsbD_append, BitVec.getLsbD_append]
  simp

@[simp] theorem csrHwcfg_reserved : (csrHwcfg cfg).extractLsb' 9 7 = 0#7 := by
  rw [csrHwcfg, BitVec.extractLsb'_append_eq_of_le (by decide), BitVec.extractLsb'_append_eq_of_le (by decide)]
  exact BitVec.extractLsb'_append_eq_right

/-- HWCFG from bit 16 up: the three tags, zero-extended (10_state.md R41). -/
theorem csrHwcfg_upper (start len : Nat) : (csrHwcfg cfg).extractLsb' (16 + start) len =
    (0#24 ++ cfg.tagSparseV1 ++ cfg.tagSparseV2 ++ cfg.tagDenseV1).extractLsb' start len := by
  rw [csrHwcfg, BitVec.extractLsb'_append_eq_of_le (by omega), BitVec.extractLsb'_append_eq_of_le (by omega),
    BitVec.extractLsb'_append_eq_of_le (by omega)]
  congr 1
  omega

@[simp] theorem csrHwcfg_tagDenseV1 : (csrHwcfg cfg).extractLsb' 16 8 = cfg.tagDenseV1 :=
  (csrHwcfg_upper cfg 0 8).trans BitVec.extractLsb'_append_eq_right

@[simp] theorem csrHwcfg_tagSparseV2 : (csrHwcfg cfg).extractLsb' 24 8 = cfg.tagSparseV2 := by
  rw [csrHwcfg_upper cfg 8 8, BitVec.extractLsb'_append_eq_of_le (by decide)]
  exact BitVec.extractLsb'_append_eq_right

@[simp] theorem csrHwcfg_tagSparseV1 : (csrHwcfg cfg).extractLsb' 32 8 = cfg.tagSparseV1 := by
  rw [csrHwcfg_upper cfg 16 8, BitVec.extractLsb'_append_eq_of_le (by decide),
    BitVec.extractLsb'_append_eq_of_le (by decide)]
  exact BitVec.extractLsb'_append_eq_right

@[simp] theorem csrHwcfg_zeros : (csrHwcfg cfg).extractLsb' 40 24 = 0#24 := by
  rw [csrHwcfg_upper cfg 24 24, BitVec.extractLsb'_append_eq_of_le (by decide),
    BitVec.extractLsb'_append_eq_of_le (by decide)]
  exact BitVec.extractLsb'_append_eq_left

end

theorem ne_of_reserved {c : BitVec 8} (reserved : 9 ≤ c.toNat) {k : BitVec 8} (named : k.toNat < 9) : c ≠ k := by
  rintro rfl
  exact reserved.not_gt named

/-- R42: the numbers 0x09 to 0xFF are reserved. -/
theorem csrOfRep_of_reserved (D : Dense) {c : BitVec 8} (reserved : 9 ≤ c.toNat) : csrOfRep D c = none := by
  simp [csrOfRep, ne_of_reserved reserved]

section
variable {s : State} {c : BitVec 8}

theorem exec_readCsr_of_not_valid (notStatus : c ≠ 0x00#8) (notHwcfg : c ≠ 0x08#8) (invalid : s.valid = false) :
    exec (.readCsr c) s = .next (s.deliver ⟨2#4, 0#64, none⟩) :=
  (if_neg notStatus).trans ((if_neg notHwcfg).trans (requireValid_of_not_valid invalid _))

variable (valid : s.valid = true)
include valid

theorem exec_readCsr_of_some {d : Data} (shows : csrOfRep s.rep c = some d) :
    exec (.readCsr c) s = .next (s.deliver ⟨0#4, d, none⟩) := by
  have notStatus : c ≠ 0x00#8 := by rintro rfl; cases shows
  have notHwcfg : c ≠ 0x08#8 := by rintro rfl; cases shows
  refine (if_neg notStatus).trans ((if_neg notHwcfg).trans ((requireValid_of_valid valid _).trans ?_))
  rw [shows]
  rfl

theorem exec_readCsr_of_reserved (reserved : 9 ≤ c.toNat) :
    exec (.readCsr c) s = .next (s.deliver ⟨3#4, 0#64, none⟩) := by
  have notStatus : c ≠ 0x00#8 := ne_of_reserved reserved (by decide)
  have notHwcfg : c ≠ 0x08#8 := ne_of_reserved reserved (by decide)
  refine (if_neg notStatus).trans ((if_neg notHwcfg).trans ((requireValid_of_valid valid _).trans ?_))
  rw [csrOfRep_of_reserved _ reserved]
  rfl

end

/-- CSR 0x05 `OVF` (10_state.md R38): the slot's valid bit above its bucket. -/
def csrOvf (o : Slot) : Data := 0#47 ++ BitVec.ofBool o.valid ++ o.bucket

theorem csrOfRep_ovf (D : Dense) : csrOfRep D 0x05#8 = some (csrOvf D.ovf) := rfl

section
variable (o : Slot)

@[simp] theorem csrOvf_bucket : (csrOvf o).extractLsb' 0 16 = o.bucket := BitVec.extractLsb'_append_eq_right

theorem csrOvf_valid : (csrOvf o).getLsbD 16 = o.valid := by
  rw [csrOvf, BitVec.getLsbD_append, BitVec.getLsbD_append]
  simp

@[simp] theorem csrOvf_zeros : (csrOvf o).extractLsb' 17 47 = 0#47 := by
  rw [csrOvf, BitVec.extractLsb'_append_eq_of_le (by decide)]
  exact BitVec.extractLsb'_append_eq_left

end

/-- A precision of 5 bits keeps every m inside DATA. -/
theorem Dense.m_lt (D : Dense) : D.m < 2 ^ 32 := Nat.pow_lt_pow_right Nat.one_lt_two D.p.isLt

theorem denseImageSize_lt {p : Nat} (fits : 2 ^ p < 2 ^ 32) : denseImageSize p < 2 ^ 64 := by
  unfold denseImageSize
  omega

/-- Settles O60: CSRs 0 and 8 need no VALID, and each other named CSR shows a field that fits DATA. -/
theorem readCsrView : Obligations.ReadCsrView := by
  intro s
  have fits : 2 ^ s.rep.p.toNat < 2 ^ 32 := s.rep.m_lt
  refine ⟨?status, ⟨_, rfl, csrHwcfg_width _, csrHwcfg_packer _, csrHwcfg_reserved _, csrHwcfg_tagDenseV1 _,
    csrHwcfg_tagSparseV2 _, csrHwcfg_tagSparseV1 _, csrHwcfg_zeros _⟩, fun c => exec_readCsr_of_not_valid,
    fun valid => ?named⟩
  case status =>
    rw [← csrStatus_eq_ite]
    rfl
  case named =>
    exact ⟨⟨_, exec_readCsr_of_some valid rfl, BitVec.toNat_setWidth_of_le (by decide)⟩,
      ⟨_, exec_readCsr_of_some valid rfl, Nat.mod_eq_of_lt (fits.trans (by decide))⟩,
      ⟨_, exec_readCsr_of_some valid rfl, BitVec.toNat_setWidth_of_le (by decide)⟩,
      ⟨_, exec_readCsr_of_some valid rfl, BitVec.toNat_setWidth_of_le (by decide)⟩,
      ⟨_, exec_readCsr_of_some valid (csrOfRep_ovf _), csrOvf_bucket _, csrOvf_valid _, csrOvf_zeros _⟩,
      ⟨_, exec_readCsr_of_some valid rfl, BitVec.toNat_setWidth_of_le (by decide)⟩,
      ⟨_, exec_readCsr_of_some valid rfl, Nat.mod_eq_of_lt (denseImageSize_lt fits)⟩,
      fun c => exec_readCsr_of_reserved valid⟩

end Machine
end Sys2Proof
end

section
/-! 60_exceptions.md R260 to R264, 70_reset_and_hazards.md R290: the statuses each command can fail with, what a failing
command leaves, the commands that need VALID, the parser's failures, and the reset event. -/

namespace Sys2Proof
namespace Machine

/-! ## The parser's failures (R260; 45_image_packer.md R215) -/

/-- The statuses an image can fail with. -/
@[simp] def parseFailures : List Status := [.formatRetired, .formatUnknown, .formatCorrupt, .unsupportedPrecision]

theorem convertSparse_error_mem {img : Image} {st : Status} (failed : convertSparse img = .error st) :
    st ∈ parseFailures := by
  rcases convertSparse_error failed with rfl | rfl <;> simp

theorem parseImage_error_mem {cfg : HwConfig} {img : Image} {st : Status} (failed : parseImage cfg img = .error st) :
    st ∈ parseFailures := by
  unfold parseImage at failed
  split_ifs at failed with short retired sparse dense
  case pos | pos | neg => cases failed; simp
  · exact convertSparse_error_mem failed
  · obtain rfl := parseDense_error failed
    simp

section
variable {s : State} {img : Image} {st : Status} (failed : parseImage s.cfg img = .error st)
include failed

theorem exec_loadImage_of_error : exec (.loadImage img) s = fail st s := by
  show execLoadImage img s = _
  rw [execLoadImage, failed]

theorem exec_mergeImage_of_error (valid : s.valid = true) : exec (.mergeImage img) s = fail st s := by
  refine (requireValid_of_valid valid _).trans ?_
  rw [failed]

end

/-- R122: a Sparse v2 image of a precision no dense representation has. -/
theorem parseImage_sparseImage_of_large {cfg : HwConfig} (wf : cfg.wf = true) {p : Nat} {es : List SparseEntry}
    (large : 17 ≤ p) (le : p ≤ 26) (count : es.length < 65536) (order : ascending es = true) :
    parseImage cfg (sparseImage cfg.tagSparseV2 (BitVec.ofNat 8 p) es) = .error .unsupportedPrecision := by
  have failed := parseSparse_sparseImage cfg.tagSparseV2 (by omega) le count order
  rw [if_neg (by omega)] at failed
  refine (parseImage_tagSparseV2_cons wf _).trans ?_
  show convertSparse (sparseImage cfg.tagSparseV2 (BitVec.ofNat 8 p) es) = _
  rw [convertSparse, failed]

/-- Settles O44: the parser has four failures, both commands pass them on, and four images give them. -/
theorem imageFailuresAreReported : Obligations.ImageFailuresAreReported := by
  refine ⟨fun s img st failed => ⟨st.code, ?code, exec_loadImage_of_error failed, exec_mergeImage_of_error failed⟩,
    fun s wf => ⟨?empty, fun rest => ?retired, fun tag rest notRetired notSparse notDense => ?unknown,
      fun p es large le count order => ?unsupported⟩⟩
  case code =>
    have mem := parseImage_error_mem failed
    simp only [parseFailures, List.mem_cons, List.not_mem_nil, or_false] at mem
    rcases mem with rfl | rfl | rfl | rfl <;> simp [Status.code]
  case empty => exact exec_loadImage_of_error (st := .formatCorrupt) rfl
  case retired => exact exec_loadImage_of_error (parseImage_tagSparseV1_cons _ rest)
  case unknown =>
    have noRoute : ¬ (tag = s.cfg.tagDenseV1 ∧ s.cfg.hasPacker = true) := by
      rintro ⟨dense, packer⟩
      simp [dense, packer] at notDense
    exact exec_loadImage_of_error (parseImage_unknown_cons notRetired notSparse noRoute rest)
  case unsupported => exact exec_loadImage_of_error (parseImage_sparseImage_of_large wf large le count order)

/-! ## The replies of a command (R260 to R263) -/

/-- The statuses of R260 that a command can fail with once it is decoded. -/
@[simp] def Instr.failures : Instr → List Status
  | .nop => []
  | .init _ => [.invalidArgument]
  | .insert _ _ => [.notInitialized, .invalidArgument]
  | .insertHash _ => [.notInitialized]
  | .decodeHash _ => [.notInitialized]
  | .cardinality => [.notInitialized]
  | .mergeImage _ => .notInitialized :: .precisionMismatch :: parseFailures
  | .loadImage _ => parseFailures
  | .storeImage => [.illegalCommand, .notInitialized, .unrepresentable]
  | .verify => [.notInitialized, .invariantViolation]
  | .readBucket _ => [.notInitialized, .invalidArgument]
  | .readCsr c => if c = 0x00#8 ∨ c = 0x08#8 then [] else [.notInitialized, .invalidArgument]

/-- The outcome o of the instruction i in the state s: it completes, or it fails with one of its statuses in the state
it found, with data 0 but for VERIFY's flags (46_control.md R241). -/
def Replies (s : State) (i : Instr) (o : Host.Outcome State Fault Refusal) : Prop :=
  (∃ (t : State) (d : Data) (img : Option Image), t.responses = s.responses ∧ o = respond d img t) ∨
  (∃ st ∈ Instr.failures i, ∃ d : Data, (st ≠ .invariantViolation → d = 0#64) ∧ o = failWithData st d s)

section
variable {s : State} {i : Instr}

theorem respond_replies (d : Data) (img : Option Image) : Replies s i (respond d img s) := .inl ⟨s, d, img, rfl, rfl⟩

theorem hold_replies (D : Dense) (d : Data) : Replies s i (respond d none (s.hold D)) :=
  .inl ⟨s.hold D, d, none, rfl, rfl⟩

theorem update_replies (D : Dense) (d : Data) : Replies s i (respond d none (s.update D)) :=
  .inl ⟨s.update D, d, none, rfl, rfl⟩

theorem fail_replies {st : Status} (mem : st ∈ Instr.failures i) : Replies s i (fail st s) :=
  .inr ⟨st, mem, 0#64, fun _ => rfl, rfl⟩

theorem requireValid_replies {k : Host.Outcome State Fault Refusal} (mem : .notInitialized ∈ Instr.failures i)
    (checked : Replies s i k) : Replies s i (requireValid s k) := by
  unfold requireValid
  split
  · exact checked
  · exact fail_replies mem

end

theorem execLoadImage_replies (img : Image) (s : State) : Replies s (.loadImage img) (execLoadImage img s) := by
  unfold execLoadImage
  split
  case h_1 st failed => exact fail_replies (parseImage_error_mem failed)
  case h_2 => exact hold_replies _ _

theorem execMergeImage_replies (img : Image) (s : State) : Replies s (.mergeImage img) (execMergeImage img s) := by
  refine requireValid_replies (by simp) ?_
  split
  case h_1 st failed => exact fail_replies (.tail _ (.tail _ (parseImage_error_mem failed)))
  case h_2 =>
    split
    · exact update_replies _ _
    · exact fail_replies (by simp)

theorem execStoreImage_replies (s : State) : Replies s .storeImage (execStoreImage s) := by
  unfold execStoreImage requirePacker
  split
  · refine requireValid_replies (by simp) ?_
    split
    · exact fail_replies (by simp)
    · exact respond_replies _ _
  · exact fail_replies (by simp)

theorem execVerify_replies (s : State) : Replies s .verify (execVerify s) := by
  refine requireValid_replies (by simp) ?_
  split
  · exact .inr ⟨.invariantViolation, by simp, _, fun other => absurd rfl other, rfl⟩
  · exact respond_replies _ _

theorem execReadCsr_replies (csr : BitVec 8) (s : State) : Replies s (.readCsr csr) (execReadCsr csr s) := by
  unfold execReadCsr
  split_ifs with status hwcfg
  · exact respond_replies _ _
  · exact respond_replies _ _
  · refine requireValid_replies (by simp [status, hwcfg]) ?_
    split
    · exact respond_replies _ _
    · exact fail_replies (by simp [status, hwcfg])

/-- Every command completes, or fails as R260 says it can. -/
theorem exec_replies (i : Instr) (s : State) : Replies s i (exec i s) := by
  cases i with
  | nop => exact respond_replies _ _
  | init p =>
    show Replies s (.init p) (execInit p s)
    unfold execInit
    split
    · exact hold_replies _ _
    · exact fail_replies (by simp)
  | insert b v =>
    refine requireValid_replies (by simp) ?_
    split
    · exact update_replies _ _
    · exact fail_replies (by simp)
  | insertHash h => exact requireValid_replies (by simp) (update_replies _ _)
  | decodeHash h => exact requireValid_replies (by simp) (respond_replies _ _)
  | cardinality => exact requireValid_replies (by simp) (respond_replies _ _)
  | mergeImage img => exact execMergeImage_replies img s
  | loadImage img => exact execLoadImage_replies img s
  | storeImage => exact execStoreImage_replies s
  | verify => exact execVerify_replies s
  | readBucket b =>
    refine requireValid_replies (by simp) ?_
    split
    · exact respond_replies _ _
    · exact fail_replies (by simp)
  | readCsr csr => exact execReadCsr_replies csr s

/-! ## A failing command changes nothing (R262) -/

theorem eq_verify_of_mem_failures {i : Instr} (mem : .invariantViolation ∈ Instr.failures i) : i = .verify := by
  cases i with
  | verify => rfl
  | readCsr c => by_cases exempt : c = 0x00#8 ∨ c = 0x08#8 <;> simp [exempt] at mem
  | nop | init | insert | insertHash | decodeHash | cardinality | mergeImage | loadImage | storeImage | readBucket =>
    simp at mem

/-- The response that a step appends is the one it delivers. -/
theorem eq_of_deliver_responses {s t : State} {r r' : Response} (same : t.responses = s.responses)
    (appended : (t.deliver r').responses = s.responses ++ [r]) : r = r' := by
  simpa [same] using appended.symm

/-- Settles O11: a failing command has replied in the state it found (`exec_replies`), and only VERIFY fails with data. -/
theorem failedCommandChangesNothing : Obligations.FailedCommandChangesNothing := by
  intro s t c rest r hin steps appended failing
  cases decoded : decode s.cfg.hasPacker c with
  | error e =>
    rw [step_of_decode_error hin decoded] at steps
    cases steps
    obtain rfl := eq_of_deliver_responses (t := { s with inputs := rest }) rfl appended
    exact ⟨rfl, rfl, fun _ => rfl⟩
  | ok i =>
    rw [step_of_decode_ok hin decoded] at steps
    rcases exec_replies i { s with inputs := rest } with ⟨u, d, img, same, replies⟩ | ⟨st, mem, d, zero, replies⟩
    · cases steps.symm.trans replies
      obtain rfl := eq_of_deliver_responses same appended
      exact absurd rfl failing
    · cases steps.symm.trans replies
      obtain rfl := eq_of_deliver_responses (t := { s with inputs := rest }) rfl appended
      refine ⟨rfl, rfl, fun notVerify => zero fun violation => notVerify (congrArg _ ?_)⟩
      exact eq_verify_of_mem_failures (violation ▸ mem)

/-! ## The commands that need VALID (R261) -/

theorem status_code_eq_two_iff (st : Status) : st.code = 2#4 ↔ st = .notInitialized := by cases st <;> decide

/-- A command that NOT_INITIALIZED is no failure of never answers it. -/
theorem exec_status_ne_two {i : Instr} (never : .notInitialized ∉ Instr.failures i) (s : State) :
    ∃ (t : State) (r : Response), exec i s = .next t ∧ t.responses = s.responses ++ [r] ∧ r.status ≠ 2#4 := by
  rcases exec_replies i s with ⟨t, d, img, same, replies⟩ | ⟨st, mem, d, -, replies⟩
  · refine ⟨_, okResponse d img, replies, congrArg (· ++ [_]) same, fun two => ?_⟩
    exact absurd ((status_code_eq_two_iff .ok).mp two) (by decide)
  · refine ⟨_, failResponse st d, replies, rfl, fun two => never ?_⟩
    exact (status_code_eq_two_iff st).mp two ▸ mem

/-- Settles O14: nine commands check VALID before they do anything else, and R260 lists no NOT_INITIALIZED for the
others. -/
theorem commandsThatNeedValid : Obligations.CommandsThatNeedValid := by
  refine fun s => ⟨fun invalid i needs => ?_, fun i exempt => exec_status_ne_two ?_ s⟩
  · cases i with
    | nop | init | loadImage => simp at needs
    | storeImage =>
      have packer : s.cfg.hasPacker = true := by simpa using needs
      exact (requirePacker_of_packer packer _).trans (requireValid_of_not_valid invalid _)
    | readCsr c =>
      obtain ⟨notStatus, notHwcfg⟩ : c ≠ 0x00#8 ∧ c ≠ 0x08#8 := by simpa using needs
      exact exec_readCsr_of_not_valid notStatus notHwcfg invalid
    | insert | insertHash | decodeHash | cardinality | mergeImage | verify | readBucket =>
      exact requireValid_of_not_valid invalid _
  · rcases exempt with rfl | ⟨p, rfl⟩ | ⟨img, rfl⟩ | rfl | rfl <;> simp

/-! ## Every step goes on (R264), and the reset event (R290) -/

/-- Settles O9, from what a step can do. -/
theorem everyStepAnswersNext : Obligations.EveryStepAnswersNext := fun s =>
  (step_yields s).imp fun _ yields => yields.1

/-- Settles O19, from the fields of the reset event. -/
theorem resetEventResetsTheBlock : Obligations.ResetEventResetsTheBlock := fun _ _ _ hin =>
  ⟨_, step_of_reset hin, rfl, rfl, rfl, rfl, rfl, rfl, rfl, rfl⟩

end Machine
end Sys2Proof
end
